-- ==== Sys2Proof/Word.lean ====
section
/-! DEFINITION. The word types of the machine and their plainest arithmetic (00 R5: bit 0 is the least significant bit). -/

namespace Sys2Proof

abbrev Byte := BitVec 8
abbrev Word32 := BitVec 32
abbrev Word64 := BitVec 64

/-- A 96-bit lane mask, or the 96 bits of a lane instruction. -/
abbrev Mask := BitVec 96

/-- A lane number of a strand (R7). -/
abbrev Lane := Fin 96

/-- A scalar register number. -/
abbrev Reg := Fin 64

/-- The scalar register whose number a six-bit field gives. -/
def regOf (b : BitVec 6) : Reg := b.toFin

/-- The 64-bit word that is 1 when the condition holds and 0 when it does not. -/
def boolWord (b : Bool) : Word64 := if b then 1 else 0

end Sys2Proof
end

