-- ==== Sys2Proof/Syntax.lean ====
section
/-! DEFINITION. The instructions and events of the opcode table, one constructor a row.

Rows with a scalar word take the fields the table gives the word. Rows of the lane stream take the fields of R106.
Rows without a word are events of the device (95): their arguments say which agent moves, or what the outside world supplies. -/

namespace Sys2Proof

/-- The element types (R44). -/
inductive Ty where
  | i8 | i16 | i32 | i64 | n8 | n16 | n32 | n64
  | f64 | f32 | f16 | bf16 | e4m3 | e5m2 | e2m1 | o4 | bs24 | af32
  deriving DecidableEq, Repr

/-- What a nine-bit operand code names (R35). -/
inductive Opnd where
  | v (n : Fin 128)
  | acc (n : Fin 32)
  | x (n : Fin 4)
  | k (n : Fin 4)
  | imm
  | lane
  | zero
  deriving DecidableEq, Repr

/-- The fields of a lane instruction other than its opcode (R34, R106). `hi4` is W0 [15:12], `hi5` is W1 [31:27].
W2 is kept whole: it is operand C with per-opcode bits, or the immediate (R36). -/
structure LaneFields where
  ty : Ty
  hi4 : BitVec 4
  sel : BitVec 3
  cond : BitVec 3
  wb : Bool
  be : Bool
  sat : Bool
  sr : Bool
  rm : BitVec 2
  dst : Opnd
  a : Opnd
  b : Opnd
  hi5 : BitVec 5
  w2 : Word32
  deriving DecidableEq, Repr

/-- A core: compute die, column and row of the mesh (R148). -/
structure CoreId where
  die : Fin 8
  x : Fin 8
  y : Fin 4
  deriving DecidableEq, Repr

/-- A strand's place: its core and resident strand index (R162). -/
structure StrandId where
  core : CoreId
  rs : Fin 32
  deriving DecidableEq, Repr

/-- A gang: the launch block that identifies its field (R179), the field's address space, and the linear index (R7). -/
structure GangId where
  block : Word64
  asid : BitVec 16
  index : Nat
  deriving DecidableEq, Repr

/-- A queue: the crew that holds it and its number (R201). -/
structure QueueId where
  gang : GangId
  peer : Nat
  q : Fin 32
  deriving DecidableEq, Repr

/-- The four typed local buffers of a core (R233). -/
inductive Buf where
  | g | w | a | c
  deriving DecidableEq, Repr

/-- One page-table completion of the host (R529): the host page and its permissions, or a denial. -/
structure AtsReply where
  granted : Bool
  page : Nat
  r : Bool
  w : Bool
  x : Bool
  deriving DecidableEq, Repr

/-- A fabric port of this device: die and port, 0–3 copper and 4–5 optical (R510). -/
structure PortId where
  die : Fin 4
  port : Fin 6
  deriving DecidableEq, Repr

/-- What a fabric request asks of the export window (R511). -/
inductive FabricOp where
  | load
  | store (data : List Byte)
  | atomic (op : BitVec 4) (ret : Bool) (data : Word64)
  | cas (cmp new : Word64)
  deriving DecidableEq, Repr

/-- A fabric flit as it reaches its receiver (R516, R518, R521): the header's fields, payload and CRC as received, the symbol errors of the codeword
that brought it, and the star port of the band (on an optical port). Its kind is that of the event. -/
structure FlitHead where
  seq : BitVec 16
  mc : Bool
  dest : BitVec 11
  src : BitVec 11
  payload : List Byte
  crc : Word64
  errors : Nat
  star : Fin 16
  deriving DecidableEq, Repr

/-- What lies at the other end of a band or of a copper port (R519, R520): the device, whether a receiver of its port is tuned to this port's band,
and the multicast groups that its port accepts. -/
structure FabricLink where
  device : Nat
  hears : Bool
  groups : List Nat
  deriving DecidableEq, Repr

/-- The classes of R535 in which a transmitter chooses its next flit, the first one first. -/
inductive FlitClass where
  | reply | writeBack | request | management
  deriving DecidableEq, Repr

/-- Whom a fabric flit is for (R516): a device, or the members of a multicast group; an interposer flit has its pair's receiver. -/
inductive FlitDest where
  | pair
  | device (d : Nat)
  | group (g : Nat)
  deriving DecidableEq, Repr

/-- What a flit carries. `n` names the access that asks; `replay` sends a flit of the replay buffer again; an interposer flit has a number. -/
inductive FlitBody where
  | request (n o bytes : Nat) (op : FabricOp)
  | reply (n : Nat) (error : Option (Fin 8)) (data : List Byte)
  | ack (upto : Nat)
  | ask (from' : Nat)
  | replay (seq : Nat)
  | marker (wc : BitVec 2) (mask : Word32)
  | payload (n : Nat)
  deriving DecidableEq, Repr

/-- A flit that waits at a transmitter: its class, its source, whom it is for and what it carries. -/
structure TxFlit where
  cls : FlitClass
  source : Nat
  dest : FlitDest
  body : FlitBody
  deriving DecidableEq, Repr

/-- A try to carry a flit over a pair of endpoints: the colour it uses, on a relay that of the second leg, the flit's sequence number, and where
its CRC fails on a relay, whether on the second leg (R488, R490, R491). -/
structure FlitTry where
  colour : Bool
  second : Bool
  seq : Nat
  onSecond : Bool
  deriving DecidableEq, Repr

/-- Who writes a register (the Access columns of chapters 07, 19 and 20). -/
inductive Writer where
  | host
  | firmware
  | lamplighter
  deriving DecidableEq, Repr

/-- A write from outside the strands: to a register at an offset of the configuration aperture (R499), by the host to its own memory (R501), and the
three steps in which a host appends to the launch list (R502). -/
inductive HostWrite where
  | register (who : Writer) (a : Nat) (data : Word64)
  | memory (a : Nat) (data : List Byte)
  | takeSlot
  | fillSlot (t : Nat) (asid : BitVec 16)
  | installSlot (t : Nat) (block : Word64)
  deriving DecidableEq, Repr

/-- An image of the boot flash (R493): the endpoint it is for, its bytes, and the public key and signature that come with it. -/
structure FlashImage where
  endpoint : Nat
  image : List Byte
  signature : List Byte
  deriving DecidableEq, Repr

/-- The instruction set and the events of the device: one constructor per row of the opcode table. -/
inductive Instr where
  -- integer group (R86, R87)
  | add (d a b : Reg) | sub (d a b : Reg) | mul (d a b : Reg) | mulh (d a b : Reg) | mulhn (d a b : Reg)
  | div (d a b : Reg) | divn (d a b : Reg) | rem (d a b : Reg) | remn (d a b : Reg)
  | and (d a b : Reg) | or (d a b : Reg) | xor (d a b : Reg) | andn (d a b : Reg)
  | shl (d a b : Reg) | shr (d a b : Reg) | sra (d a b : Reg) | rol (d a b : Reg)
  | min (d a b : Reg) | max (d a b : Reg) | minn (d a b : Reg) | maxn (d a b : Reg)
  | seq (d a b : Reg) | sne (d a b : Reg) | slt (d a b : Reg) | sle (d a b : Reg) | sltn (d a b : Reg) | slen (d a b : Reg)
  | popc (d a : Reg) | clz (d a : Reg) | ctz (d a : Reg)
  | sextb (d a : Reg) | sexth (d a : Reg) | sextw (d a : Reg) | zextb (d a : Reg) | zexth (d a : Reg) | zextw (d a : Reg)
  -- immediate group (R88), constants and select (R89–R91)
  | addi (d a : Reg) (i : BitVec 13) | andi (d a : Reg) (i : BitVec 13) | ori (d a : Reg) (i : BitVec 13)
  | xori (d a : Reg) (i : BitVec 13)
  | shli (d a : Reg) (n : BitVec 6) | shri (d a : Reg) (n : BitVec 6) | srai (d a : Reg) (n : BitVec 6)
  | slti (d a : Reg) (i : BitVec 13) | sltni (d a : Reg) (i : BitVec 13)
  | ldi (d : Reg) (i : BitVec 19) | ldk (d : Reg) (i : BitVec 19) | sel (d a b c : Reg)
  -- branches (R94)
  | b (o : BitVec 25) | bal (o : BitVec 25) | bc (c : BitVec 3) (a : Reg) (o : BitVec 16)
  | jr (a : Reg) | jalr (d a : Reg) | dbnz (a : Reg) (o : BitVec 16)
  -- lane control and mask transfer (R96–R99)
  | lrun (k : Reg) (c : BitVec 5) (i : BitVec 14) | lrunr (k a : Reg) (c : BitVec 5) | lwait (n : BitVec 19)
  | mget (d : Reg) (p : BitVec 2) (k : Fin 8) | mset (a : Reg) (p : BitVec 2) (k : Fin 8)
  -- scalar memory (R100, R291, R292, R295)
  | ld (d a b : Reg) (g : Bool) (p : BitVec 3) (z : BitVec 2) | st (d a b : Reg) (p : BitVec 3) (z : BitVec 2)
  | amo (d a b : Reg) (o : BitVec 4) (z l : Bool) | amoNr (d a b : Reg) (o : BitVec 4) (z l : Bool)
  | cas (d a b : Reg) (z : Bool) (p : Reg)
  | fenceAr (s : BitVec 3) | fenceAcq (s : BitVec 3) | fenceRel (s : BitVec 3)
  -- locks, pause and queues (R200–R218)
  | rlock (d a : Reg) (p : BitVec 3) | runlock (d a : Reg) (p : BitVec 3)
  | wlock (d a : Reg) (p : BitVec 3) | wunlock (d a : Reg) (p : BitVec 3)
  | pause (p a : Reg) | qdef (a b : Reg) (q : Fin 32)
  | push (a b : Reg) (o : Bool) (q : Fin 32) | pop (d b : Reg) (o : Bool) (q : Fin 32)
  | qtryPush (d a b : Reg) (o : Bool) (q : Fin 32) | qtryPop (d b : Reg) (o : Bool) (q : Fin 32)
  | qinfo (d b : Reg) (o : Bool) (q : Fin 32)
  -- engine commands (chapters 11 to 14)
  | cpy (a b : Reg) (t : BitVec 2) (l : BitVec 3) | cpyg (a b : Reg) (t : BitVec 2) | waitc (n : BitVec 9) (c : BitVec 4)
  | mlds (a b : Reg) | mswap | mloop (a b : Reg) | cstore (a b : Reg) (l : BitVec 3) | cclr (a b : Reg)
  | xprog (a : Reg) (n : Fin 4) | xmvm (a : Reg) (n : Fin 4) | xtrim (n : Fin 4) | xcal (d a : Reg) (n : Fin 4)
  | nlaunch (a b : Reg) | nred (a b : Reg) | nrowZero (a b : Reg) | nrowCopy (a b : Reg) | nfence
  | flaunch (d a : Reg) | pdisc (d a b : Reg)
  -- system (chapter 17)
  | gets (d : Reg) (r : BitVec 12) | sets (a : Reg) (r : BitVec 12) | trap (c : BitVec 16) | sret
  | mapft (d a b : Reg)
  | tlbinvOwn (d a b : Reg) | tlbinvAsid (d a b : Reg) | tlbinvAll (d a b : Reg) | tlbinvAllasid (d a b : Reg)
  | ccinvWb (d a b : Reg) | ccinvInv (d a b : Reg) | ccinvWbinv (d a b : Reg)
  | halt | haltGang | brk (c : BitVec 16)
  -- lane stream (chapter 04)
  | vadd (f : LaneFields) | vaddBe (f : LaneFields) | vsub (f : LaneFields) | vmul (f : LaneFields) | vmulBe (f : LaneFields)
  | vfma (f : LaneFields) | vfmaBe (f : LaneFields) | vmin (f : LaneFields) | vmax (f : LaneFields) | vmaxBe (f : LaneFields)
  | vabs (f : LaneFields) | vneg (f : LaneFields) | vdiv (f : LaneFields) | vsqrt (f : LaneFields) | vrcp (f : LaneFields)
  | vrsq (f : LaneFields) | vexp2 (f : LaneFields) | vlog2 (f : LaneFields) | vrnd (f : LaneFields)
  | viadd (f : LaneFields) | visub (f : LaneFields) | vimul (f : LaneFields) | vimulh (f : LaneFields) | vimad (f : LaneFields)
  | vimin (f : LaneFields) | vimax (f : LaneFields) | viabs (f : LaneFields) | vand (f : LaneFields) | vor (f : LaneFields)
  | vxor (f : LaneFields) | vnot (f : LaneFields) | vshl (f : LaneFields) | vshr (f : LaneFields) | vpopc (f : LaneFields)
  | vclz (f : LaneFields) | vcmp (f : LaneFields) | vsel (f : LaneFields) | vclass (f : LaneFields) | vmov (f : LaneFields)
  | vlane (f : LaneFields) | vcvt (f : LaneFields) | vcvtBe (f : LaneFields) | vqblk (f : LaneFields) | vdqblk (f : LaneFields)
  | afma (f : LaneFields) | aadd (f : LaneFields) | aclr (f : LaneFields) | anarrow (f : LaneFields) | awiden (f : LaneFields)
  | vaccept (f : LaneFields) | vbound (f : LaneFields)
  -- cross-lane (chapter 06)
  | vshuf (f : LaneFields) | vbcast (f : LaneFields) | vredu (f : LaneFields) | vscan (f : LaneFields) | vmatch (f : LaneFields)
  | vvote (f : LaneFields) | vsort (f : LaneFields) | vcompress (f : LaneFields)
  -- lane memory (chapters 04, 08, 11)
  | vld (f : LaneFields) | vst (f : LaneFields) | vldl (f : LaneFields) | vldlBe (f : LaneFields) | vstl (f : LaneFields)
  | vatom (f : LaneFields) | vred (f : LaneFields) | vcas (f : LaneFields) | lcopy (f : LaneFields) | vpref (f : LaneFields)
  -- candle-only (R416, R417)
  | nif (k : Fin 8) | nelse | nendif | ncol (d a : Opnd) (w2 : Word32) | ncolw (a : Opnd) (c : BitVec 9) | nact (a : Opnd) (w2 : Word32)
  -- forms of gets and sets with a row of their own (R66, R74, R177, R183, R202, R456)
  | rngseedWrite (a : Reg) | flagsRead (d : Reg) | flagsWrite (a : Reg) | lcbWrite (a : Reg) | qbaseWrite (a : Reg)
  | prioWrite (a : Reg) | tvecWrite (a : Reg)
  -- scheduling (chapters 05, 06)
  | portCycle (c : CoreId) (p : Fin 4) | wickPromotion (t : StrandId) | starvation (t : StrandId) | pauseExpiry (t : StrandId)
  | blockTimeout (t : StrandId) | taper (q : QueueId)
  -- memory (chapters 07, 08, 17); `n` is the number of an access in flight
  | scalarLoadReply (n : Nat) | scalarFaultReply (t : StrandId) | laneLoadReply (n : Nat) (chip : Nat)
  | homeAccess (n : Nat) | tableWalk (n : Nat) | pageRevival (n : Nat)
  | homeAtomic (n : Nat) | gauAtomic (n : Nat) | bankAluAtomic (n : Nat) | peerGAccess (n : Nat)
  | prefetchFill (n : Nat)
  | localBankWake (c : CoreId) (u : Buf) (bank : Nat) | llcWayGate (chip way : Nat) | shootdown (n : Nat)
  -- launch and end of work (chapters 05, 19)
  | launchIntake | gangClaim (die : Fin 8) | concurrentAdmission (die : Fin 8) | strandRetire (t : StrandId) | gangRetire (g : GangId)
  -- engines (chapters 11 to 14); `n` is the number of an accepted command
  | copyOperation (c : CoreId) (n : Nat) | lcopyOperation (c : CoreId) (n : Nat) | operationRetire (t : StrandId) (cls : Fin 8)
  | dmeCommandExecute (c : CoreId) | mloopStep (c : CoreId) | dmeOwnershipPass (c : CoreId)
  | xprogExecute (c : CoreId) (n : Fin 4) | xmvmExecute (c : CoreId) (n : Fin 4) | xtrimExecute (c : CoreId) (n : Fin 4)
  | xcalExecute (c : CoreId) (n : Fin 4)
  | nearPhase1 (c : CoreId) (n : Nat) | nearPhase2 (c : CoreId) (n : Nat) | nredReduce (c : CoreId) (n : Nat) (chip : Nat)
  -- traps and pre-emption (chapter 17)
  | trapEntry (t : StrandId) | preEmptionDrain (g : GangId) | gangRestore (g : GangId) (die : Fin 8)
  -- boot, measurement and the host's commands (chapter 19)
  | sconceBoot (flash : List FlashImage) | ddbPublish (untrained : List Nat)
  | getVersion | getCapabilities | negotiateAlgorithms | getDigests | getCertificate | challenge (nonce : Nat)
  | getMeasurements (i : Nat) | unsupportedRequest (code : Byte)
  | imageChunk | imageDone | leaveOut | keyslot
  | preEmpt | endField | conditionalLeaf | shootDown | unknownHostOp
  | broadcastWrite (w : HostWrite) | broadcastRead (a : Nat)
  -- interposer (R488–R491)
  | interposerFlit (src dst : Nat) (sent : FlitTry) (crcOk : Bool) (offered : List TxFlit)
  | colourLost (src dst : Nat) (colour : Bool) | prrWrite (src dst : Nat) (w : Word64) | pairModeChange (src dst : Nat) (relay : Bool)
  -- fabric (chapter 20)
  | requestFlit (p : PortId) (h : FlitHead) (o : Nat) (bytes : Nat) (op : FabricOp)
  | replyFlit (p : PortId) (h : FlitHead) (n : Nat) (error : Option (Fin 8)) (data : List Byte)
  | ackFlit (p : PortId) (h : FlitHead) (upto : BitVec 16) | widthMarker (p : PortId) (h : FlitHead) (wc : BitVec 2) (mask : Word32)
  | managementFlit (p : PortId) (h : FlitHead) (link : Option FabricLink) | idleFlit (p : PortId) | unknownKindFlit (p : PortId) (kind : Byte)
  | replayRequest (p : PortId) (h : FlitHead) (from' : BitVec 16) | peerTimeout (n : Nat)
  | copperRetrain (p : PortId) (lane : Fin 16) | retrainComplete (p : PortId) (ok : Bool)
  | erasureSet (p : PortId) (lane : Fin 32) | opwidthWrite (p : PortId) (w : Word64) | widthChange (p : PortId)
  | lasstWrite (p : PortId) (w : Word64) | laneWake (p : PortId) (lane : Fin 32) | standbyReached (p : PortId) (lane : Fin 32)
  | lasclampWrite (p : PortId) (w : Word64) (sconce : Bool)
  | llkick (die : Fin 4) | lamplighterWatchdog (die : Fin 4)
  -- host link (chapter 20)
  | atsCompletion (n : Nat) (r : AtsReply) | atsInvalidation (asid : BitVec 16) (va : Word64) (pages : Nat)
  | priResponse (n : Nat) (ok : Bool) | priTimeout (n : Nat)
  | biasFlipToHost (k : Fin 64) (w : Word64) | biasFlipToDevice (k : Fin 64) (w : Word64)
  | powerThrottle (watts : Nat) | thermalTrip
  -- words that are no instruction (R82, R113)
  | undefinedScalarWord (w : Word32) | undefinedLaneOpcode (w : BitVec 96)
  -- events added last by the table
  | lamplighterRestart (die : Fin 4) | receiveLockAcquired (p : PortId) (lane : Fin 32) (lock : BitVec 2)
  | localBankGate (c : CoreId) (u : Buf) (bank : Nat) | localBankEnable (c : CoreId) (u : Buf) (bank : Nat)
  | llcWayEnable (chip way : Nat) | llcWayCleared (chip way : Nat)
  deriving DecidableEq, Repr

end Sys2Proof
end

