-- ==== Sys2Proof/WellFormed.lean ====
section
/-! DEFINITION. When an instruction is one the encoding tables list: the limits of R82 on scalar words and of R107,
R112 and R113 on lane words. A term that fails the check is an encoding that raises the Undefined trap. -/

namespace Sys2Proof

/-! ## Types and operands -/

/-- The type code (R44). -/
def Ty.code : Ty → BitVec 8
  | .i8 => 0x01 | .i16 => 0x02 | .i32 => 0x03 | .i64 => 0x04
  | .n8 => 0x09 | .n16 => 0x0A | .n32 => 0x0B | .n64 => 0x0C
  | .f64 => 0x10 | .f32 => 0x11 | .f16 => 0x12 | .bf16 => 0x13
  | .e4m3 => 0x14 | .e5m2 => 0x15 | .e2m1 => 0x16 | .o4 => 0x17 | .bs24 => 0x18 | .af32 => 0x21

/-- The type of a code; every other code is reserved (R45). -/
def Ty.ofCode (c : BitVec 8) : Option Ty :=
  [Ty.i8, .i16, .i32, .i64, .n8, .n16, .n32, .n64, .f64, .f32, .f16, .bf16, .e4m3, .e5m2, .e2m1, .o4, .bs24, .af32].find?
    (fun t => t.code == c)

/-- The width of an element in bits (R44). -/
def Ty.width : Ty → Nat
  | .i8 | .n8 | .e4m3 | .e5m2 => 8
  | .i16 | .n16 | .f16 | .bf16 => 16
  | .i32 | .n32 | .f32 | .af32 => 32
  | .i64 | .n64 | .f64 => 64
  | .e2m1 | .o4 => 4
  | .bs24 => 24

def Ty.signed : Ty → Bool
  | .i8 | .i16 | .i32 | .i64 => true
  | _ => false

def Ty.unsigned : Ty → Bool
  | .n8 | .n16 | .n32 | .n64 => true
  | _ => false

/-- The eight integer types, I of R112. -/
def Ty.isInt (t : Ty) : Bool := t.signed || t.unsigned

/-- F of R112. -/
def Ty.isF : Ty → Bool
  | .f64 | .f32 | .f16 | .bf16 => true
  | _ => false

/-- A 64-bit element occupies a register pair (R14). -/
def Ty.wide (t : Ty) : Bool := t.width == 64

/-- The operand of a nine-bit code; 171 and above are reserved (R35). -/
def Opnd.ofCode (c : BitVec 9) : Option Opnd :=
  let n := c.toNat
  if h : n < 128 then some (.v ⟨n, h⟩)
  else if h : n - 128 < 32 then some (.acc ⟨n - 128, h⟩)
  else if h : n - 160 < 4 then some (.x ⟨n - 160, h⟩)
  else if h : n - 164 < 4 then some (.k ⟨n - 164, h⟩)
  else if n = 168 then some .imm
  else if n = 169 then some .lane
  else if n = 170 then some .zero
  else none

def Opnd.code : Opnd → BitVec 9
  | .v n => BitVec.ofNat 9 n
  | .acc n => BitVec.ofNat 9 (128 + n)
  | .x n => BitVec.ofNat 9 (160 + n)
  | .k n => BitVec.ofNat 9 (164 + n)
  | .imm => 168
  | .lane => 169
  | .zero => 170

/-- An operand field that an instruction does not use must be zero, which is the code of v0 (R107). -/
def Opnd.unused : Opnd := .v 0

/-! ## The parts of W2 -/

namespace LaneFields

/-- Operand C (R34). -/
def c (f : LaneFields) : Option Opnd := Opnd.ofCode (f.w2.extractLsb' 0 9)
/-- The policy register of a memory instruction (R139). -/
def pol (f : LaneFields) : Reg := regOf (f.w2.extractLsb' 9 6)
/-- The space code of a memory instruction (R139). -/
def space (f : LaneFields) : BitVec 3 := f.w2.extractLsb' 15 3
/-- The scalar register of a write-back (R110). -/
def sdx (f : LaneFields) : Reg := regOf (f.hi4.extractLsb' 0 1 ++ f.hi5)
/-- The mask number in W1 [29:27] (R121, R122, R223). -/
def maskNo (f : LaneFields) : Fin 8 := (f.hi5.extractLsb' 0 3).toFin
/-- The packed form (R111). -/
def pk (f : LaneFields) : Bool := f.hi4.getLsbD 3
/-- Operand A or B reads the immediate, so that W2 is the immediate (R36). -/
def usesImm (f : LaneFields) : Bool := f.a == .imm || f.b == .imm

/-! ## Checks of R107 -/

/-- Only the modifiers the opcode accepts may be set (R107, R112). -/
def mods (f : LaneFields) (rnd : Bool := false) (sat : Bool := false) (be : Bool := false) (wb : Bool := false) : Bool :=
  (rnd || (f.rm == 0 && !f.sr)) && (sat || !f.sat) && (f.be == be) && (wb || !f.wb) && f.cond == 0

/-- The four per-opcode bits and the five of W1 are zero. R107 asks zero of the bits that an entry declares; where an entry that has no such
field says nothing of them, the model asks it too, as it does of W2 [31:9] (`w2Plain`, `w2C`). DESIGN CHOICE, unsafe: log 101. -/
def noHi (f : LaneFields) : Bool := f.hi4 == 0 && f.hi5 == 0

/-- W2 is the immediate, or zero (R107). -/
def w2Plain (f : LaneFields) : Bool := f.usesImm || f.w2 == 0

end LaneFields

/-- An ordinary source of the given type (R35, R14, R109): no accumulator, an even pair for a wide type, the lane index for integers only. -/
def Opnd.srcOk (t : Ty) : Opnd → Bool
  | .v n => !t.wide || n.val % 2 == 0
  | .acc _ => false
  | .lane => t.isInt
  | _ => true

/-- An ordinary destination: a vector register, even for a wide type, or a latch (R35). -/
def Opnd.dstOk (t : Ty) : Opnd → Bool
  | .v n => !t.wide || n.val % 2 == 0
  | .x _ => true
  | _ => false

/-- An even vector register. -/
def Opnd.evenV : Opnd → Bool
  | .v n => n.val % 2 == 0
  | _ => false

def Opnd.isAcc : Opnd → Bool
  | .acc _ => true
  | _ => false

/-- A source of a bounded-error form (R136): an even register, a k slot, the immediate or zero. -/
def Opnd.beSrc : Opnd → Bool
  | .v n => n.val % 2 == 0
  | .k _ | .imm | .zero => true
  | _ => false

/-- A uniform operand: a k slot, the immediate or zero (R125, R222). -/
def Opnd.uniform : Opnd → Bool
  | .k _ | .imm | .zero => true
  | _ => false

/-- The base or address operand of a lane memory instruction: an even register, a latch, a k slot or zero (R139). -/
def Opnd.baseOk : Opnd → Bool
  | .v n => n.val % 2 == 0
  | .x _ | .k _ | .zero => true
  | _ => false

/-- The offset operand of a lane memory instruction (R139). -/
def Opnd.offOk : Opnd → Bool
  | .v _ | .x _ | .k _ | .lane | .zero => true
  | _ => false

/-- Operand C as a source of the given type; code 168 is never a C operand (R36). -/
def LaneFields.cOk (f : LaneFields) (t : Ty) : Bool :=
  match f.c with
  | some .imm => false
  | some o => o.srcOk t
  | none => false

/-- W2 above operand C is zero and no immediate stands beside a C operand (R36, R107). -/
def LaneFields.w2C (f : LaneFields) (t : Ty) : Bool := !f.usesImm && f.cOk t && f.w2.extractLsb' 9 23 == 0

namespace LaneFields

/-- The packed bit is legal for f16 and bf16 only; the other three per-opcode bits are zero (R111). -/
def pkOk (f : LaneFields) : Bool := f.hi4.extractLsb' 0 3 == 0 && (!f.pk || f.ty == .f16 || f.ty == .bf16) && f.hi5 == 0

/-- vd, A, B of one type (R112). -/
def ok2 (f : LaneFields) (t : Ty) : Bool := f.dst.dstOk t && f.a.srcOk t && f.b.srcOk t && f.w2Plain
/-- vd, A. -/
def ok1 (f : LaneFields) (t : Ty) : Bool := f.dst.dstOk t && f.a.srcOk t && f.b == .unused && f.w2Plain
/-- vd, A, B, C. -/
def ok3 (f : LaneFields) (t : Ty) : Bool := f.dst.dstOk t && f.a.srcOk t && f.b.srcOk t && f.w2C t

def fp2 (f : LaneFields) (rnd : Bool) : Bool := f.ty.isF && f.mods (rnd := rnd) && f.pkOk && f.ok2 f.ty
def fp1 (f : LaneFields) (types : Ty → Bool) (rnd : Bool) : Bool := types f.ty && f.mods (rnd := rnd) && f.noHi && f.ok1 f.ty
def int2 (f : LaneFields) (sat : Bool) : Bool := f.ty.isInt && f.mods (sat := sat) && f.noHi && f.ok2 f.ty
def int1 (f : LaneFields) (types : Ty → Bool) (sat : Bool) : Bool := types f.ty && f.mods (sat := sat) && f.noHi && f.ok1 f.ty

/-- f32, f16 and bf16: the types of the operations that have no binary64 form (R112). -/
def short : Ty → Bool
  | .f32 | .f16 | .bf16 => true
  | _ => false

/-- The types `vsel` and `vmov` accept: R44 except o4 and af32. -/
def movable : Ty → Bool
  | .o4 | .af32 => false
  | _ => true

/-- The types `vcvt` accepts on either side (R126). -/
def cvtTy : Ty → Bool
  | .o4 | .af32 => false
  | _ => true

/-- The source type of `vcvt`, in W2 [23:16] (R126). -/
def cvtSrc (f : LaneFields) : Option Ty := Ty.ofCode (f.w2.extractLsb' 16 8)

/-- i32, n32, f32, i64, n64 and f64 (R125, R223, R290). -/
def whole : Ty → Bool
  | .i32 | .n32 | .f32 | .i64 | .n64 | .f64 => true
  | _ => false

/-- The types of `vld` and `vst` (R139). -/
def memTy : Ty → Bool
  | .e2m1 | .o4 | .bs24 | .af32 => false
  | _ => true

/-- The scalar write-back names no em register (R110). -/
def sdxOk (f : LaneFields) : Bool := f.wb || !(f.sdx.val == 56 || f.sdx.val == 57 || f.sdx.val == 58)

/-- W0 [15:13] is zero; W0 [12] belongs to sdx. -/
def hi3Zero (f : LaneFields) : Bool := f.hi4.extractLsb' 1 3 == 0

/-- The bounded-error forms of R136. -/
def beForm (f : LaneFields) (n : Nat) : Bool :=
  f.ty == .af32 && f.mods (rnd := true) (be := true) && !f.sr && f.noHi && f.dst.evenV && f.a.beSrc && f.b.beSrc &&
    (if n == 3 then !f.usesImm && (match f.c with | some .imm => false | some o => o.beSrc | none => false) && f.w2.extractLsb' 9 23 == 0
     else f.w2Plain)

def cvtForm (f : LaneFields) : Bool :=
  match f.cvtSrc with
  | none => false
  | some s => cvtTy f.ty && cvtTy s && !(f.ty == s) && f.mods (rnd := true) && f.noHi && f.dst.dstOk f.ty && f.a.srcOk s &&
      !(f.a == .imm) && f.b == .unused && f.w2.extractLsb' 24 8 == 0 && f.w2.extractLsb' 0 16 == 0

def cvtBeForm (f : LaneFields) : Bool :=
  f.cvtSrc == some .af32 && (f.ty == .f16 || f.ty == .bf16) && f.mods (rnd := true) (be := true) && !f.sr && f.noHi && f.dst.evenV &&
    f.a.beSrc && !(f.a == .imm) && f.b == .unused && f.w2.extractLsb' 24 8 == 0 && f.w2.extractLsb' 0 16 == 0

/-- The cond codes `vcmp` accepts (R121). -/
def cmpForm (f : LaneFields) : Bool :=
  (f.ty.isF || f.ty.isInt) && f.rm == 0 && !f.sr && !f.sat && !f.be && !f.wb && f.hi4 == 0 && f.hi5.extractLsb' 3 2 == 0 &&
    f.dst == .unused && f.a.srcOk f.ty && f.b.srcOk f.ty && f.w2Plain && (f.cond.toNat < 6 || (f.cond.toNat == 6 && f.ty.isF))

/-- The op of a reduction or scan, W0 [15:13] (R223). -/
def redOp (f : LaneFields) : Nat := (f.hi4.extractLsb' 1 3).toNat

/-- `vredu` and `vscan`: F types accept ops 0 to 2, I types all six; rm only on a float add (R223). -/
def redForm (f : LaneFields) (wb : Bool) : Bool :=
  (f.ty.isF || f.ty.isInt) && f.mods (rnd := f.ty.isF && f.redOp == 0) (wb := wb) && !f.sr &&
    (if f.ty.isF then f.redOp < 3 else f.redOp < 6) && f.dst.dstOk f.ty && f.a.srcOk f.ty && f.b.uniform && f.w2Plain

/-- The fields of R139 that every gather and scatter shares. -/
def memForm (f : LaneFields) (types : Ty → Bool) : Bool :=
  types f.ty && f.mods && !f.hi4.getLsbD 3 && f.a.baseOk && f.b.offOk && f.w2.extractLsb' 18 14 == 0 && f.space.toNat < 7

/-- The operation and type of an atomic (R290): swap on all six, add everywhere, logic and min/max by kind. -/
def atomOk (f : LaneFields) : Bool :=
  let op := (f.hi5.extractLsb' 0 4).toNat
  whole f.ty && !f.hi5.getLsbD 4 && (op == 0 || op == 1 || op == 5 || op == 6 || ((op == 2 || op == 3 || op == 4) && f.ty.isInt))

end LaneFields

/-! ## The check -/

/-- The four registers of a matrix, copy or loop command: 1 to 60 (R344, R374, R378); five for `cpyg` and `nlaunch`, three for `xmvm` and `nrow`. -/
def cmdRegs (a : Reg) (n : Nat) : Bool := 1 ≤ a.val && a.val + n ≤ 64

/-- The numbers of system registers with rows of their own, by the instruction that names them. -/
def ownSetsRow (r : BitVec 12) : Bool := r == 0x041 || r == 0x040 || r == 0x001 || r == 0x020 || r == 0x010 || r == 0x008

/-- The encoding of the instruction is one the tables list: the static part of R82 and of R107, R112, R113. Events have no encoding.
In a `vcompress` with an immediate, W2 is the immediate and holds K in its bits 11:9, the others zero (R36, R223). -/
def Instr.wellFormed : Instr → Bool
  | .bc c _ _ => c != 0b111
  | .dbnz a _ => a.val != 0
  | .lrun k _ _ => k.val ≤ 60
  | .lrunr k _ _ => k.val ≤ 60
  | .lwait n => n.toNat ≤ 8
  | .mget _ p _ => p != 3
  | .mset _ p _ => p != 3
  | .ld _ _ _ g p z => p != 7 && !(g && z == 3)
  | .st _ _ _ p _ => p != 7
  | .amo _ _ _ o _ _ => o.toNat < 12
  | .amoNr _ _ _ o _ _ => o.toNat < 12
  | .fenceAr s => s.toNat < 5
  | .fenceAcq s => s.toNat < 5
  | .fenceRel s => s.toNat < 5
  | .rlock _ _ p => p.toNat < 2
  | .runlock _ _ p => p.toNat < 2
  | .wlock _ _ p => p.toNat < 2
  | .wunlock _ _ p => p.toNat < 2
  | .push _ rb o _ => !o || rb.val == 0
  | .pop _ rb o _ => !o || rb.val == 0
  | .qtryPush _ _ rb o _ => !o || rb.val == 0
  | .qtryPop _ rb o _ => !o || rb.val == 0
  | .qinfo _ rb o _ => !o || rb.val == 0
  | .cpy a _ _ l => cmdRegs a 4 && l.toNat < 6
  | .cpyg a _ _ => cmdRegs a 5
  | .waitc _ c => c.toNat < 8
  | .mloop a _ => cmdRegs a 4
  | .cstore a _ l => cmdRegs a 4 && l.toNat < 6
  | .xmvm a _ => cmdRegs a 3
  | .nlaunch a _ => cmdRegs a 5
  | .nrowZero a _ => cmdRegs a 3
  | .nrowCopy a _ => cmdRegs a 3
  | .gets _ r => r != 0x040
  | .sets _ r => !ownSetsRow r
  | .vadd f => f.fp2 true
  | .vsub f => f.fp2 true
  | .vmul f => f.fp2 true
  | .vfma f => f.ty.isF && f.mods (rnd := true) && f.pkOk && f.ok3 f.ty
  | .vmin f => f.fp2 false
  | .vmax f => f.fp2 false
  | .vabs f => f.ty.isF && f.mods && f.pkOk && f.ok1 f.ty
  | .vneg f => f.ty.isF && f.mods && f.pkOk && f.ok1 f.ty
  | .vaddBe f => f.beForm 2
  | .vmulBe f => f.beForm 2
  | .vfmaBe f => f.beForm 3
  | .vmaxBe f => f.rm == 0 && f.beForm 2
  | .vdiv f => f.ty.isF && f.mods (rnd := true) && f.noHi && f.ok2 f.ty
  | .vsqrt f => f.fp1 Ty.isF true
  | .vrcp f => f.fp1 LaneFields.short true
  | .vrsq f => f.fp1 LaneFields.short true
  | .vexp2 f => f.fp1 LaneFields.short true
  | .vlog2 f => f.fp1 LaneFields.short true
  | .vrnd f => f.fp1 Ty.isF true
  | .viadd f => f.int2 true
  | .visub f => f.int2 true
  | .vimul f => f.int2 true
  | .vimulh f => f.int2 false
  | .vimad f => f.ty.isInt && f.mods (sat := true) && f.noHi && f.ok3 f.ty
  | .vimin f => f.int2 false
  | .vimax f => f.int2 false
  | .viabs f => f.int1 Ty.signed true
  | .vand f => f.int2 false
  | .vor f => f.int2 false
  | .vxor f => f.int2 false
  | .vnot f => f.int1 Ty.isInt false
  | .vshl f => f.int2 false
  | .vshr f => f.int2 false
  | .vpopc f => f.int1 Ty.isInt false
  | .vclz f => f.int1 Ty.isInt false
  | .vcmp f => f.cmpForm
  | .vsel f => LaneFields.movable f.ty && f.mods && f.hi4 == 0 && f.hi5.extractLsb' 3 2 == 0 && f.ok2 f.ty
  | .vclass f => f.ty.isF && f.mods && f.noHi && f.dst.dstOk .n32 && f.a.srcOk f.ty && f.b == .unused && f.w2Plain
  | .vmov f => LaneFields.movable f.ty && f.mods && f.noHi && f.ok1 f.ty
  | .vlane f => LaneFields.whole f.ty && f.mods && f.sel == 0 && f.hi3Zero && f.dst == .unused && f.a.srcOk f.ty && f.b.uniform &&
      f.w2Plain && f.sdxOk
  | .vcvt f => f.cvtForm
  | .vcvtBe f => f.cvtBeForm
  | .vqblk f => (f.ty == .e2m1 || f.ty == .o4 || f.ty == .e4m3) && f.mods (rnd := true) && f.hi4.toNat < 3 && f.hi5 == 0 && f.dst.evenV &&
      f.a.srcOk .f32 && f.b == .unused && f.w2Plain
  | .vdqblk f => LaneFields.short f.ty && f.mods (rnd := true) && f.hi4.toNat < 3 && f.hi5 == 0 && f.dst.dstOk f.ty && f.a.srcOk .f32 &&
      f.b.srcOk .f32 && f.w2Plain
  | .afma f => (f.ty.isF || (f.ty.isInt && !f.ty.wide)) && f.mods (rnd := true) (sat := true) && f.noHi && f.dst.isAcc && f.a.srcOk f.ty &&
      f.b.srcOk f.ty && f.w2Plain
  | .aadd f => (f.ty.isF || f.ty.isInt) && f.mods (rnd := true) (sat := true) && f.noHi && f.dst.isAcc && (f.a.isAcc || f.a.srcOk f.ty) &&
      (f.b.isAcc || f.b.srcOk f.ty) && f.w2Plain
  | .aclr f => (f.ty == .f64 || f.ty == .i64) && f.mods && f.noHi && f.dst.isAcc && f.a == .unused && f.b == .unused && f.w2 == 0
  | .anarrow f => LaneFields.cvtTy f.ty && f.mods (rnd := true) && f.hi4.toNat < 2 && f.hi5 == 0 && f.dst.dstOk f.ty && f.a.isAcc &&
      f.b == .unused && f.w2 == 0
  | .awiden f => (f.ty.isF || f.ty.isInt) && f.mods && f.noHi && f.dst.isAcc && f.a.srcOk f.ty && f.b == .unused && f.w2Plain
  | .vaccept f => f.ty == .af32 && f.mods (wb := true) && f.hi3Zero && f.dst.evenV && f.a == .unused &&
      (match f.b with | .v _ | .k _ | .imm | .zero => true | _ => false) && f.w2Plain && f.sdxOk
  | .vbound f => f.ty == .af32 && f.mods (wb := true) && f.hi3Zero && f.dst == .unused && f.a.evenV && f.b == .unused && f.w2 == 0 && f.sdxOk
  | .vshuf f => LaneFields.whole f.ty && f.mods && f.noHi && f.dst.dstOk f.ty && f.a.srcOk f.ty && !f.usesImm &&
      (match f.b with | .v _ | .x _ | .lane => true | _ => false) &&
      (match f.c with | some (.k _) | some .zero => true | _ => false) && f.w2.extractLsb' 9 23 == 0
  | .vbcast f => LaneFields.whole f.ty && f.mods && f.noHi && f.dst.dstOk f.ty && f.a.srcOk f.ty && f.b.uniform && f.w2Plain
  | .vredu f => f.redForm true && f.sdxOk
  | .vscan f => f.redForm false && f.hi5 == 0
  | .vmatch f => (f.ty.isF || f.ty.isInt) && f.mods && f.hi4 == 0 && f.hi5.extractLsb' 3 2 == 0 && f.dst.dstOk f.ty && f.a.srcOk f.ty &&
      f.b.uniform && f.w2Plain
  | .vvote f => f.ty == .n32 && f.mods (wb := true) && !f.hi4.getLsbD 3 && f.dst.dstOk f.ty && f.a.srcOk f.ty && f.b.uniform && f.w2Plain &&
      f.sdxOk
  | .vsort f => (f.ty == .i32 || f.ty == .n32 || f.ty == .f32) && f.mods && f.hi3Zero && f.hi5 == 0 && f.dst.evenV && f.a.srcOk f.ty &&
      f.b.uniform && f.w2Plain
  | .vcompress f => LaneFields.whole f.ty && f.mods (wb := true) && f.hi3Zero && f.dst.dstOk f.ty && f.a.srcOk f.ty &&
      f.b.uniform && f.w2.extractLsb' 12 20 == 0 && f.w2.extractLsb' 0 9 == 0 && f.sdxOk
  | .vld f => f.memForm LaneFields.memTy && f.hi5 == 0 && f.dst.dstOk f.ty && f.w2.extractLsb' 0 9 == 0
  | .vst f => f.memForm LaneFields.memTy && f.hi5 == 0 && f.dst == .unused && f.cOk f.ty
  | .vldl f => LaneFields.memTy f.ty && f.mods && f.noHi && f.dst.dstOk f.ty && (f.a.uniform && f.b.uniform && !f.usesImm) &&
      f.w2.extractLsb' 0 9 == 0 && f.w2.extractLsb' 18 14 == 0 && f.space != 0 && f.space != 7
  | .vldlBe f => f.ty == .af32 && f.mods (be := true) && f.noHi && f.dst.evenV && (f.a.uniform && f.b.uniform && !f.usesImm) &&
      f.w2.extractLsb' 0 9 == 0 && f.w2.extractLsb' 18 14 == 0 && f.space == 5
  | .vstl f => LaneFields.memTy f.ty && f.mods && f.noHi && f.dst == .unused && (f.a.uniform && f.b.uniform && !f.usesImm) &&
      (match f.c with | some (.v n) => !f.ty.wide || n.val % 2 == 0 | some (.x _) => true | _ => false) &&
      f.w2.extractLsb' 18 14 == 0 && f.space != 0 && f.space != 7
  | .vatom f => f.memForm LaneFields.whole && f.atomOk && f.dst.dstOk f.ty && f.cOk f.ty
  | .vred f => f.memForm LaneFields.whole && f.atomOk && f.dst == .unused && f.cOk f.ty
  | .vcas f => (f.ty == .i32 || f.ty == .n32 || f.ty == .i64 || f.ty == .n64) && f.mods && f.noHi && f.a.baseOk && f.b.srcOk f.ty &&
      !f.usesImm && f.dst.dstOk f.ty && f.cOk f.ty && f.w2.extractLsb' 18 14 == 0 && f.space.toNat < 7
  | .lcopy f => f.ty == .n8 && f.mods && f.hi4.extractLsb' 2 2 == 0 && f.hi5 == 0 && f.dst == .unused && f.a.baseOk &&
      (match f.b with | .v _ | .x _ | .k _ | .zero => true | _ => false) &&
      (match f.c with | some (.v _) | some (.x _) | some (.k _) | some .zero => true | _ => false) &&
      f.w2.extractLsb' 18 14 == 0 && f.space.toNat < 7
  | .vpref f => f.ty == .n8 && f.mods && f.hi5 == 0 && f.dst == .unused && f.a.baseOk && f.b.offOk && f.w2.extractLsb' 0 9 == 0 &&
      f.w2.extractLsb' 18 14 == 0 && f.space == 0
  | .ncol d a w2 => (match d with | .v _ => true | _ => false) && a.uniform && (a == .imm || w2 == 0)
  | .ncolw a _ => a.uniform && !(a == .imm)
  | .nact a w2 => a.uniform && (a == .imm || w2 == 0)
  | _ => true

end Sys2Proof
end

