-- ==== Sys2Proof/Machine/Num.lean ====
section
/-! DEFINITION. Number formats and exact arithmetic (chapter 02): values as exact dyadic numbers, one rounding, the conversions of
R72, the block codecs of R58–R62. An element is carried as its code in the low bits of a `Nat`. -/

namespace Sys2Proof.Arith

/-! ## Flags (R73) -/

abbrev Flags := BitVec 5

def invalid : Flags := 0x01
def divZero : Flags := 0x02
def overflow : Flags := 0x04
def underflow : Flags := 0x08
def inexact : Flags := 0x10

def flagIf (c : Bool) (f : Flags) : Flags := if c then f else 0

/-! ## Formats (R48–R53, R56) -/

/-- A floating format: exponent and fraction widths, and which specials it has. -/
structure Fmt where
  eb : Nat
  fb : Nat
  hasInf : Bool
  hasNan : Bool
  deriving DecidableEq, Repr

def f64 : Fmt := ⟨11, 52, true, true⟩
def f32 : Fmt := ⟨8, 23, true, true⟩
def f16 : Fmt := ⟨5, 10, true, true⟩
def bf16 : Fmt := ⟨8, 7, true, true⟩
def e4m3 : Fmt := ⟨4, 3, false, true⟩
def e5m2 : Fmt := ⟨5, 2, true, true⟩
def e2m1 : Fmt := ⟨2, 1, false, false⟩
def bs24 : Fmt := ⟨8, 15, true, true⟩

/-- The float format of a type; af32 has the layout of binary32 (R57). -/
def fmtOf : Ty → Option Fmt
  | .f64 => some f64 | .f32 => some f32 | .af32 => some f32 | .f16 => some f16 | .bf16 => some bf16
  | .e4m3 => some e4m3 | .e5m2 => some e5m2 | .e2m1 => some e2m1 | .bs24 => some bs24
  | _ => none

namespace Fmt

def bias (f : Fmt) : Int := 2 ^ (f.eb - 1) - 1
/-- The exponent of the smallest normal number. -/
def emin (f : Fmt) : Int := 1 - f.bias
/-- The code of the largest finite magnitude. -/
def maxCode (f : Fmt) : Nat :=
  if f.hasInf then (2 ^ f.eb - 1) * 2 ^ f.fb - 1 else if f.hasNan then 2 ^ (f.eb + f.fb) - 2 else 2 ^ (f.eb + f.fb) - 1
def infCode (f : Fmt) : Nat := (2 ^ f.eb - 1) * 2 ^ f.fb
def signed (f : Fmt) (neg : Bool) (code : Nat) : Nat := if neg then 2 ^ (f.eb + f.fb) + code else code
/-- The default NaN (R50). -/
def defaultNan (f : Fmt) : Nat := if f.hasInf then f.infCode + 2 ^ (f.fb - 1) else 2 ^ (f.eb + f.fb) - 1

end Fmt

/-! ## Exact values -/

/-- A value: a NaN with its fraction left-aligned in 52 bits (bit 51 is the quiet bit), an infinity, or the number ±m·2^e. -/
inductive Val where
  | nan (neg : Bool) (pay : Nat)
  | inf (neg : Bool)
  | fin (neg : Bool) (m : Nat) (e : Int)
  deriving DecidableEq, Repr

namespace Val

def isNan : Val → Bool | .nan _ _ => true | _ => false
def signalling : Val → Bool | .nan _ p => !p.testBit 51 | _ => false
def neg : Val → Bool | .nan n _ => n | .inf n => n | .fin n _ _ => n
def isZero : Val → Bool | .fin _ 0 _ => true | _ => false
def isInf : Val → Bool | .inf _ => true | _ => false
def negate : Val → Val | .nan n p => .nan n p | .inf n => .inf (!n) | .fin n m e => .fin (!n) m e
def ofInt (i : Int) : Val := .fin (decide (i < 0)) i.natAbs 0

end Val

/-- The value of a code. -/
def Fmt.val (f : Fmt) (x : Nat) : Val :=
  let neg := x.testBit (f.eb + f.fb)
  let ex := (x >>> f.fb) % 2 ^ f.eb
  let fr := x % 2 ^ f.fb
  if ex == 2 ^ f.eb - 1 && f.hasInf then (if fr == 0 then .inf neg else .nan neg (fr <<< (52 - f.fb)))
  else if ex == 2 ^ f.eb - 1 && f.hasNan && fr == 2 ^ f.fb - 1 then .nan neg (fr <<< (52 - f.fb))
  else if ex == 0 then .fin neg fr (f.emin - f.fb)
  else .fin neg (fr + 2 ^ f.fb) ((ex : Int) - f.bias - f.fb)

/-- A NaN as a code of the format, quieted; e4m3 gives S.1111.111 (R50, R72). -/
def Fmt.ofNan (f : Fmt) (neg : Bool) (pay : Nat) : Nat :=
  f.signed neg (if f.hasInf then f.infCode + ((pay >>> (52 - f.fb)) ||| 2 ^ (f.fb - 1)) else 2 ^ (f.eb + f.fb) - 1)

/-! ## Rounding (R63, R64) -/

/-- The rounding direction in force. -/
inductive Mode where
  | nearest | zero | up | down | stochastic
  deriving DecidableEq, Repr

/-- A rounding: the direction, and the draw of R65 that a stochastic rounding uses. -/
structure Rounding where
  mode : Mode
  draw : Nat
  deriving DecidableEq, Repr

def nearest : Rounding := ⟨.nearest, 0⟩

/-- The direction the fields sr and rm select. -/
def modeOf (sr : Bool) (rm : BitVec 2) : Mode :=
  if sr then .stochastic else match rm with | 0#2 => .nearest | 1#2 => .zero | 2#2 => .up | _ => .down

/-- m·2^-k as an integer, and whether digits were lost. -/
def roundShift (r : Rounding) (neg : Bool) (m : Nat) (k : Int) : Nat × Bool :=
  if k ≤ 0 then (m <<< (-k).toNat, false)
  else
    let s := k.toNat
    let q := m >>> s
    let rem := m % 2 ^ s
    let up : Bool :=
      match r.mode with
      | .nearest => decide (2 ^ s < 2 * rem) || (2 * rem == 2 ^ s && q % 2 == 1)
      | .zero => false
      | .up => !neg && rem != 0
      | .down => neg && rem != 0
      | .stochastic => decide (2 ^ 32 ≤ ((rem <<< 32) >>> s) + r.draw)
    (if up then q + 1 else q, rem != 0)

/-- Whether an overflow under the direction delivers an infinity (R68). -/
def overflowToInf (mode : Mode) (neg : Bool) : Bool :=
  match mode with
  | .nearest | .stochastic => true
  | .zero => false
  | .up => !neg
  | .down => neg

/-- ±m·2^e rounded once into the format. A conversion saturates (R72); arithmetic overflows under R68. -/
def Fmt.round (f : Fmt) (sat : Bool) (r : Rounding) (neg : Bool) (m : Nat) (e : Int) : Nat × Flags :=
  if m == 0 then (f.signed neg 0, 0)
  else
    let wide : Int := (Nat.log2 m : Int) + e - f.fb
    let narrow : Int := max wide (f.emin - f.fb)
    let (q, lost) := roundShift r neg m (narrow - e)
    let code : Nat :=
      if q < 2 ^ f.fb then q
      else ((narrow + f.fb + f.bias).toNat) * 2 ^ f.fb + (q - 2 ^ f.fb)
    let tooBig : Bool := decide (f.maxCode < code)
    let unbounded := (roundShift r neg m (wide - e)).1
    let tiny : Bool := decide (wide < f.emin - f.fb) && !(wide + 1 == f.emin - f.fb && unbounded == 2 ^ (f.fb + 1))
    if tooBig then
      (f.signed neg (if !sat && overflowToInf r.mode neg then f.infCode else f.maxCode), overflow ||| inexact)
    else (f.signed neg code, flagIf lost inexact ||| flagIf (lost && tiny) underflow)

/-! ## Results -/

/-- A result and the flags it raised. -/
abbrev Res := Nat × Flags

/-- The first NaN among the operands, quieted; invalid when any of them is signalling (R70). -/
def nanOf (f : Fmt) (vs : List Val) : Option Res :=
  match vs.find? Val.isNan with
  | some (.nan n p) => some (f.ofNan n p, flagIf (vs.any Val.signalling) invalid)
  | _ => none

def defaultInvalid (f : Fmt) : Res := (f.defaultNan, invalid)

/-- An exact zero sum of operands of differing signs (R69, IEEE 754). -/
def zeroSumNeg (r : Rounding) : Bool := r.mode == .down

/-- The signed integer ±m. -/
def sgn (neg : Bool) (m : Nat) : Int := if neg then -(m : Int) else m

/-- The sum of two finite numbers as mantissa and exponent. -/
def addFin (n1 : Bool) (m1 : Nat) (e1 : Int) (n2 : Bool) (m2 : Nat) (e2 : Int) : Int × Int :=
  let e := min e1 e2
  (sgn n1 (m1 <<< (e1 - e).toNat) + sgn n2 (m2 <<< (e2 - e).toNat), e)

/-- Rounds an exact sum; `zneg` is the sign of an exact zero. -/
def roundSum (f : Fmt) (r : Rounding) (zneg : Bool) (s : Int × Int) : Res :=
  if s.1 == 0 then (f.signed zneg 0, 0) else f.round false r (decide (s.1 < 0)) s.1.natAbs s.2

/-- a + b of values that are not NaN. -/
def addVal (f : Fmt) (r : Rounding) : Val → Val → Res
  | .inf n1, .inf n2 => if n1 == n2 then (f.signed n1 f.infCode, 0) else defaultInvalid f
  | .inf n, _ => (f.signed n f.infCode, 0)
  | _, .inf n => (f.signed n f.infCode, 0)
  | .fin n1 m1 e1, .fin n2 m2 e2 =>
    roundSum f r (if m1 == 0 && m2 == 0 && n1 == n2 then n1 else zeroSumNeg r) (addFin n1 m1 e1 n2 m2 e2)
  | _, _ => defaultInvalid f

/-- The exact product of values that are not NaN; none for 0 × ∞. -/
def mulVal : Val → Val → Option Val
  | .fin n1 m1 e1, .fin n2 m2 e2 => some (.fin (n1 ^^ n2) (m1 * m2) (e1 + e2))
  | .inf n1, .inf n2 => some (.inf (n1 ^^ n2))
  | .inf n1, .fin n2 m _ => if m == 0 then none else some (.inf (n1 ^^ n2))
  | .fin n1 m _, .inf n2 => if m == 0 then none else some (.inf (n1 ^^ n2))
  | _, _ => none

/-- Rounds a value into a format as an arithmetic result. -/
def roundVal (f : Fmt) (r : Rounding) : Val → Res
  | .nan n p => (f.ofNan n p, 0)
  | .inf n => (f.signed n f.infCode, 0)
  | .fin n m e => f.round false r n m e

/-- a + b (R68, R70). -/
def add (f : Fmt) (r : Rounding) (a b : Val) : Res := (nanOf f [a, b]).getD (addVal f r a b)
/-- a + (−b); a NaN of b is delivered as the operand itself (R70, R115). DEDUCED, unsafe: log 20. -/
def sub (f : Fmt) (r : Rounding) (a b : Val) : Res := (nanOf f [a, b]).getD (addVal f r a b.negate)
/-- a × b. -/
def mul (f : Fmt) (r : Rounding) (a b : Val) : Res :=
  (nanOf f [a, b]).getD (match mulVal a b with | some v => roundVal f r v | none => defaultInvalid f)
/-- a × b + c with one rounding (R69). -/
def fma (f : Fmt) (r : Rounding) (a b c : Val) : Res :=
  let zeroInf := (a.isZero && b.isInf) || (a.isInf && b.isZero)
  match nanOf f [a, b, c] with
  | some (x, fl) => (x, if zeroInf then fl ||| invalid else fl)
  | none => match mulVal a b with
    | some p => addVal f r p c
    | none => defaultInvalid f

/-! ## Comparison -/

/-- a < b for values that are not NaN; −0 = +0. -/
def ltVal : Val → Val → Bool
  | .inf n1, .inf n2 => n1 && !n2
  | .inf n, _ => n
  | _, .inf n => !n
  | .fin n1 m1 e1, .fin n2 m2 e2 => decide ((addFin n1 m1 e1 (!n2) m2 e2).1 < 0)
  | _, _ => false

def eqVal (a b : Val) : Bool := !a.isNan && !b.isNan && !ltVal a b && !ltVal b a

/-- a < b with −0 below +0 (R116). -/
def ltTotal (a b : Val) : Bool := ltVal a b || (a.isZero && b.isZero && a.neg && !b.neg)

/-- The smaller or the larger operand, copied (R116). -/
def minMax (f : Fmt) (larger : Bool) (x y : Nat) : Res :=
  let a := f.val x
  let b := f.val y
  (nanOf f [a, b]).getD (if larger then (if ltTotal a b then (y, 0) else (x, 0)) else (if ltTotal b a then (y, 0) else (x, 0)))

/-! ## Division, root, exponential and logarithm (R71) -/

/-- m1·2^e1 / (m2·2^e2) with 128 digits below the point and a last digit that is set when digits were lost. -/
def quotient (m1 : Nat) (e1 : Int) (m2 : Nat) (e2 : Int) : Nat × Int :=
  let k := 160 + Nat.log2 m2
  let n := m1 <<< k
  (2 * (n / m2) + (if n % m2 == 0 then 0 else 1), e1 - e2 - k - 1)

def div (f : Fmt) (r : Rounding) (a b : Val) : Res :=
  (nanOf f [a, b]).getD (
    match a, b with
    | .inf _, .inf _ => defaultInvalid f
    | .inf n1, v => (f.signed (n1 ^^ v.neg) f.infCode, 0)
    | v, .inf n2 => (f.signed (v.neg ^^ n2) 0, 0)
    | .fin n1 m1 e1, .fin n2 m2 e2 =>
      if m2 == 0 then (if m1 == 0 then defaultInvalid f else (f.signed (n1 ^^ n2) f.infCode, divZero))
      else
        let q := quotient m1 e1 m2 e2
        f.round false r (n1 ^^ n2) q.1 q.2
    | _, _ => defaultInvalid f)

/-- The integer square root, one binary digit at a time from digit k − 1 down. -/
def isqrtFrom (n : Nat) : Nat → Nat → Nat
  | 0, acc => acc
  | k + 1, acc => isqrtFrom n k (if (acc + 2 ^ k) * (acc + 2 ^ k) ≤ n then acc + 2 ^ k else acc)

def isqrt (n : Nat) : Nat := isqrtFrom n (Nat.log2 n / 2 + 1) 0

def sqrt (f : Fmt) (r : Rounding) (a : Val) : Res :=
  (nanOf f [a]).getD (
    match a with
    | .inf n => if n then defaultInvalid f else (f.infCode, 0)
    | .fin n m e =>
      if m == 0 then (f.signed n 0, 0)
      else if n then defaultInvalid f
      else
        let odd := e % 2 == 1
        let m' := (if odd then 2 * m else m) <<< 256
        let s := isqrt m'
        f.round false r false (2 * s + (if s * s == m' then 0 else 1)) ((if odd then e - 1 else e) / 2 - 129)
    | _ => defaultInvalid f)

def rcp (f : Fmt) (r : Rounding) (a : Val) : Res := div f r (.fin false 1 0) a

def rsq (f : Fmt) (r : Rounding) (a : Val) : Res :=
  (nanOf f [a]).getD (
    match a with
    | .inf n => if n then defaultInvalid f else (0, 0)
    | .fin n m e =>
      if m == 0 then (f.signed n f.infCode, divZero)
      else if n then defaultInvalid f
      else
        let odd := e % 2 == 1
        let m' := if odd then 2 * m else m
        let k := 160 + Nat.log2 m'
        let s := isqrt (2 ^ (2 * k) / m')
        f.round false r false (2 * s + (if s * s * m' == 2 ^ (2 * k) then 0 else 1)) (-((if odd then e - 1 else e) / 2) - k - 1)
    | _ => defaultInvalid f)

/-- Digits below the point of the fixed-point series. -/
def seriesBits : Nat := 320

/-- ln 2 = Σ 1/(k·2^k), in fixed point. -/
def ln2 : Nat := (List.range 330).foldl (fun s i => s + 2 ^ seriesBits / ((i + 1) * 2 ^ (i + 1))) 0

/-- Σ x^k/k! for a fixed-point x, by its terms in order. -/
def expSeries (x : Nat) : Nat :=
  ((List.range 90).foldl (fun (st : Nat × Nat) i => (st.1 + st.2, (st.2 * x / 2 ^ seriesBits) / (i + 1))) (0, 2 ^ seriesBits)).1

/-- ln((1+z)/(1−z)) = 2·Σ z^(2k+1)/(2k+1) for a fixed-point z. -/
def logSeries (z : Nat) : Nat :=
  let zz := z * z / 2 ^ seriesBits
  2 * ((List.range 110).foldl (fun (st : Nat × Nat) i => (st.1 + st.2 / (2 * i + 1), st.2 * zz / 2 ^ seriesBits)) (0, z)).1

/-- 2^a; the exponent is limited to a range that every format overflows or underflows beyond. DEDUCED, safe: log 21. -/
def exp2 (f : Fmt) (r : Rounding) (a : Val) : Res :=
  (nanOf f [a]).getD (
    match a with
    | .inf n => if n then (0, 0) else (f.infCode, 0)
    | .fin n m e =>
      let whole : Int := if 0 ≤ e then sgn n (m <<< (min e 16).toNat) else sgn n m / 2 ^ (min (-e) 400).toNat
      let frac : Nat := if 0 ≤ e then 0 else ((sgn n m) % 2 ^ (min (-e) 400).toNat).toNat
      let top : Int := max (-4096) (min 4096 whole)
      if frac == 0 then f.round false r false 1 top
      else
        let x := (frac <<< seriesBits) / 2 ^ (-e).toNat
        f.round false r false (2 * expSeries (x * ln2 / 2 ^ seriesBits) + 1) (top - seriesBits - 1)
    | _ => defaultInvalid f)

/-- log₂ a. DEDUCED, safe: log 21. -/
def log2 (f : Fmt) (r : Rounding) (a : Val) : Res :=
  (nanOf f [a]).getD (
    match a with
    | .inf n => if n then defaultInvalid f else (f.infCode, 0)
    | .fin n m e =>
      if m == 0 then (f.signed true f.infCode, divZero)
      else if n then defaultInvalid f
      else
        let k := Nat.log2 m
        let whole : Int := e + k
        if m == 2 ^ k then f.round false r (decide (whole < 0)) whole.natAbs 0
        else
          let z := ((m - 2 ^ k) <<< seriesBits) / (m + 2 ^ k)
          let v : Int := whole * 2 ^ seriesBits + ((logSeries z <<< seriesBits) / ln2 : Nat)
          f.round false r (decide (v < 0)) (2 * v.natAbs + 1) (-(seriesBits : Int) - 1)
    | _ => defaultInvalid f)

/-- Rounds to an integral value of the same format (R118). -/
def roundIntegral (f : Fmt) (r : Rounding) (x : Nat) : Res :=
  let v := f.val x
  (nanOf f [v]).getD (
    match v with
    | .fin n m e =>
      let (q, lost) := roundShift r n m (-e)
      if !lost then (x, 0) else ((f.round false nearest n q 0).1, inexact)
    | _ => (x, 0))

/-- The class bit of R123. -/
def classOf (f : Fmt) (x : Nat) : Nat :=
  match f.val x with
  | .nan n p => if Val.signalling (.nan n p) then 8 else 9
  | .inf n => if n then 0 else 7
  | .fin n m _ =>
    if m == 0 then (if n then 3 else 4)
    else if m < 2 ^ f.fb then (if n then 2 else 5)
    else (if n then 1 else 6)

/-! ## Integers (R46, R47) -/

/-- The smallest and largest value of an integer type. -/
def intMin (t : Ty) : Int := if t.signed then -(2 ^ (t.width - 1)) else 0
def intMax (t : Ty) : Int := if t.signed then 2 ^ (t.width - 1) - 1 else 2 ^ t.width - 1
/-- The integer a code stands for. -/
def intVal (t : Ty) (x : Nat) : Int :=
  let u := x % 2 ^ t.width
  if t.signed && u.testBit (t.width - 1) then (u : Int) - 2 ^ t.width else u
/-- The code of an integer modulo 2^N. -/
def intCode (t : Ty) (v : Int) : Nat := (v % 2 ^ t.width).toNat
def clamp (t : Ty) (v : Int) : Int := max (intMin t) (min (intMax t) v)
/-- Wrapped, or clamped when the saturate modifier is set. -/
def intResult (t : Ty) (sat : Bool) (v : Int) : Nat := intCode t (if sat then clamp t v else v)

/-! ## Conversions (R72) -/

/-- Whether an infinity of the source stays one in the destination; bs24 counts as binary32. -/
def keepsInf (s d : Fmt) : Bool :=
  let w (f : Fmt) : Fmt := if f == bs24 then f32 else f
  d.hasInf && decide ((w s).eb ≤ (w d).eb) && decide ((w s).fb ≤ (w d).fb)

/-- A float converted to another float format. -/
def cvtFloat (s d : Fmt) (r : Rounding) (v : Val) : Res :=
  match v with
  | .nan n p =>
    if d.hasNan then (d.ofNan n p, flagIf v.signalling invalid) else (0, invalid)
  | .inf n => if keepsInf s d then (d.signed n d.infCode, 0) else (d.signed n d.maxCode, overflow ||| inexact)
  | .fin n m e => d.round true r n m e

/-- A float converted into the range lo to hi, and the flags. -/
def cvtToInt (lo hi : Int) (r : Rounding) (v : Val) : Int × Flags :=
  match v with
  | .nan _ _ => (0, invalid)
  | .inf n => (if n then lo else hi, invalid)
  | .fin n m e =>
    let (q, lost) := roundShift r n m (-e)
    let i := sgn n q
    if i < lo then (lo, invalid) else if hi < i then (hi, invalid) else (i, flagIf lost inexact)

/-- A code of one type converted to another; neither is o4 (R72, R126). -/
def convert (s d : Ty) (r : Rounding) (x : Nat) : Res :=
  match fmtOf s, fmtOf d with
  | some fs, some fd => cvtFloat fs fd r (fs.val x)
  | some fs, none =>
    let (i, fl) := cvtToInt (intMin d) (intMax d) r (fs.val x)
    (intCode d i, fl)
  | none, some fd =>
    let i := intVal s x
    fd.round true r (decide (i < 0)) i.natAbs 0
  | none, none => (intCode d (clamp d (intVal s x)), 0)

/-- A value rounded into a type as a conversion of an exact value (R60): infinities of an exact product do not arise. -/
def toType (d : Ty) (r : Rounding) (v : Val) : Res :=
  match fmtOf d with
  | some fd => cvtFloat f32 fd r v
  | none =>
    let (i, fl) := cvtToInt (intMin d) (intMax d) r v
    (intCode d i, fl)

/-! ## Binary32 helpers for bounds and scales -/

/-- A finite number ±m·2^e as an exact pair; the signed mantissa and the exponent. -/
abbrev Dyadic := Int × Int

def Dyadic.add (a b : Dyadic) : Dyadic :=
  let e := min a.2 b.2
  (a.1 * 2 ^ (a.2 - e).toNat + b.1 * 2 ^ (b.2 - e).toNat, e)
def Dyadic.mul (a b : Dyadic) : Dyadic := (a.1 * b.1, a.2 + b.2)
def Dyadic.le (a b : Dyadic) : Bool :=
  let e := min a.2 b.2
  decide (a.1 * 2 ^ (a.2 - e).toNat ≤ b.1 * 2 ^ (b.2 - e).toNat)
def Dyadic.abs (a : Dyadic) : Dyadic := (a.1.natAbs, a.2)
def Dyadic.val (a : Dyadic) : Val := .fin (decide (a.1 < 0)) a.1.natAbs a.2

/-- The exact pair of a finite value. -/
def Val.dyadic : Val → Dyadic
  | .fin n m e => (sgn n m, e)
  | _ => (0, 0)

/-- round_up_f32 (R389): toward +∞ into binary32, above the largest finite +∞. -/
def roundUpF32 (d : Dyadic) : Nat :=
  if d.1 == 0 then 0 else (f32.round false ⟨.up, 0⟩ (decide (d.1 < 0)) d.1.natAbs d.2).1

/-- ulp of a finite value on a grid of p fraction bits and smallest exponent emin (R389, R405). -/
def ulp (emin : Int) (fb : Nat) (v : Val) : Dyadic :=
  match v with
  | .fin _ m e => if m == 0 then (1, emin - fb) else (1, max ((Nat.log2 m : Int) + e) emin - fb)
  | _ => (0, 0)

/-! ## Blocks (R54, R55, R58–R62) -/

/-- The three block formats, numbered as W0 [15:12] of `vdqblk` numbers them. -/
inductive Block where
  | e2m1 | o4 | e4m3
  deriving DecidableEq, Repr

namespace Block

def ofCode : Nat → Option Block
  | 0 => some .e2m1 | 1 => some .o4 | 2 => some .e4m3 | _ => none
def ofTy : Ty → Option Block
  | .e2m1 => some .e2m1 | .o4 => some .o4 | .e4m3 => some .e4m3 | _ => none
/-- Bytes of a block (R59). -/
def size : Block → Nat | .e4m3 => 36 | _ => 20
def fmax : Block → Nat | .e2m1 => 6 | .o4 => 7 | .e4m3 => 448

end Block

/-- A four-bit two's-complement integer. -/
def signed4 (c : Nat) : Int := if 8 ≤ c % 16 then (c % 16 : Int) - 16 else (c % 16 : Int)

/-- The value of slot i of an o4 block with codes c and outlier nibble h (R55). -/
def o4Slot (c : Nat → Nat) (h i : Nat) : Val :=
  let pair := 2 * (i / 2)
  let out : Option Nat := if c pair == 8 then some pair else if c (pair + 1) == 8 then some (pair + 1) else none
  match out with
  | none => Val.ofInt (signed4 (c i))
  | some o => if i == o then e4m3.val (16 * (h % 16) + c (if i % 2 == 0 then i + 1 else i - 1) % 16) else .fin false 0 0

/-- The value of element i of a block before the scale. -/
def elemVal (b : Block) (c : Nat → Nat) (h i : Nat) : Val :=
  match b with
  | .e2m1 => Arith.e2m1.val (c i % 16)
  | .e4m3 => Arith.e4m3.val (c i % 256)
  | .o4 => o4Slot (fun j => c j % 16) h i

def hasNan (d : Ty) : Bool := match fmtOf d with | some f => f.hasNan | none => false

/-- elem × scale, rounded once into the destination (R60, R61). -/
def blockDecode (d : Ty) (r : Rounding) (elem : Val) (scale : Nat) : Res :=
  let nanOut : Res := match fmtOf d with
    | some f => if f.hasNan then (f.defaultNan, invalid) else (0, invalid)
    | none => (0, invalid)
  match bs24.val scale with
  | .fin n m e =>
    match elem with
    | .nan _ _ => toType d r elem
    | .inf _ => nanOut
    | .fin n2 m2 e2 => toType d r (.fin (n ^^ n2) (m * m2) (e + e2))
  | _ => nanOut

/-- The scale of an encode: amax/Fmax rounded toward +∞ into bs24, saturated; no flag (R62). -/
def blockScale (b : Block) (xs : List Val) : Nat :=
  let amax := xs.foldl (fun (a : Dyadic) v =>
    let x : Dyadic := match v with
      | .nan _ _ => (0, 0)
      | .inf _ => (2 ^ 24 - 1, 104)
      | .fin _ m e => (m, e)
    if a.le x then x else a) (0, 0)
  if amax.1 == 0 then 0
  else
    let q := quotient amax.1.natAbs amax.2 b.fmax 0
    (bs24.round true ⟨.up, 0⟩ false q.1 q.2).1

/-- The element code of one source value under a scale (R62). -/
def blockElem (b : Block) (r : Rounding) (scale : Nat) (x : Val) : Res :=
  let divided : Val → Val := fun v =>
    match v, bs24.val scale with
    | .fin n m e, .fin _ m2 e2 => let q := quotient m e m2 e2; .fin n q.1 q.2
    | v, _ => v
  match b with
  | .o4 =>
    if x.isNan then (0, invalid)
    else if scale == 0 then (0, 0)
    else
      let (i, fl) := cvtToInt (-7) 7 r (divided x)
      ((i % 16).toNat, fl)
  | .e2m1 =>
    if x.isNan then (0, invalid)
    else if scale == 0 then (Arith.e2m1.signed x.neg 0, 0)
    else cvtFloat f32 Arith.e2m1 r (divided x)
  | .e4m3 =>
    match x with
    | .nan n p => (Arith.e4m3.ofNan n p, 0)
    | v => if scale == 0 then (Arith.e4m3.signed v.neg 0, 0) else cvtFloat f32 Arith.e4m3 r (divided v)

/-- The bytes of a block from its codes, scale and outlier nibble (R58, R59). -/
def blockBytes (b : Block) (codes : List Nat) (scale h : Nat) : List Nat :=
  let c (i : Nat) : Nat := codes.getD i 0
  match b with
  | .e4m3 => (List.range 32).map c ++ [0, scale % 256, scale / 256 % 256, scale / 65536 % 256]
  | .e2m1 => (List.range 16).map (fun j => c (2 * j) + 16 * c (2 * j + 1)) ++
      [scale % 256, scale / 256 % 256, scale / 65536 % 256, 0]
  | .o4 => (List.range 16).map (fun j => c (2 * j) + 16 * c (2 * j + 1)) ++
      [16 * (h % 16), scale % 256, scale / 256 % 256, scale / 65536 % 256]

/-- Codes, scale and outlier nibble of the bytes of a block; pad bits are ignored (R59). -/
def blockFields (b : Block) (bytes : List Nat) : (Nat → Nat) × Nat × Nat :=
  let y (i : Nat) : Nat := bytes.getD i 0
  let nibble (i : Nat) : Nat := if i % 2 == 0 then y (i / 2) % 16 else y (i / 2) / 16
  match b with
  | .e4m3 => (y, y 33 + 256 * y 34 + 65536 * y 35, 0)
  | .e2m1 => (nibble, y 16 + 256 * y 17 + 65536 * y 18, 0)
  | .o4 => (nibble, y 17 + 256 * y 18 + 65536 * y 19, y 16 / 16)

end Sys2Proof.Arith
end

