-- ==== Sys2Proof/Decode.lean ====
section
/-! DEFINITION. Decoding of scalar and lane words, and after it the encoder written from the same tables
(R33–R36, R80–R104, R106–R143 and the encoding tables of the later chapters). A word that is no instruction is rejected by name. -/

namespace Sys2Proof

/-- Why a word is no instruction. Each of these raises the Undefined trap where the word is executed (R82, R113). -/
inductive Reject where
  /-- No scalar row: an opcode, fn or field value not listed, or a must-be-zero field that is not zero (R82). -/
  | scalarWord
  /-- A lane opcode absent from the map, the candle-only opcodes included (R113). -/
  | laneOpcode
  /-- A reserved type code (R45). -/
  | laneType
  /-- A reserved operand code (R35). -/
  | laneOperand
  /-- A modifier, type, operand position or must-be-zero bit the row does not list (R107, R113). -/
  | laneForm
  /-- Neither one scalar word nor three lane words. -/
  | length
  deriving DecidableEq, Repr

/-- What decoding a word gives: an instruction, or a rejection by name. -/
inductive Decoded where
  | ok (i : Instr)
  | error (r : Reject)
  deriving DecidableEq, Repr

/-! ## Scalar words -/

namespace ScalarWord

def op (w : Word32) : BitVec 7 := w.extractLsb' 25 7
def sd (w : Word32) : Reg := regOf (w.extractLsb' 19 6)
def sa (w : Word32) : Reg := regOf (w.extractLsb' 13 6)
def sb (w : Word32) : Reg := regOf (w.extractLsb' 7 6)
def fn (w : Word32) : BitVec 7 := w.extractLsb' 0 7
def imm13 (w : Word32) : BitVec 13 := w.extractLsb' 0 13
def imm19 (w : Word32) : BitVec 19 := w.extractLsb' 0 19
def off25 (w : Word32) : BitVec 25 := w.extractLsb' 0 25
/-- The queue instructions' own-core bit and queue number (R204). -/
def own (w : Word32) : Bool := w.getLsbD 5
def queue (w : Word32) : Fin 32 := (w.extractLsb' 0 5).toFin
/-- The array number of an analog command (R394). -/
def array (w : Word32) : Fin 4 := (w.extractLsb' 0 2).toFin
/-- The field is zero. -/
def z (w : Word32) (lo n : Nat) : Bool := w.extractLsb' lo n == 0

end ScalarWord

open ScalarWord

/-- `some i` when the must-be-zero fields are zero. -/
def whenZero (c : Bool) (i : Instr) : Option Instr := if c then some i else none

/-- The integer group, selected by fn; a unary operation requires sb = 0 (R86). -/
def decodeInteger (w : Word32) : Option Instr :=
  match fn w with
  | 0x0#7 => some (.add (sd w) (sa w) (sb w))
  | 0x1#7 => some (.sub (sd w) (sa w) (sb w))
  | 0x2#7 => some (.mul (sd w) (sa w) (sb w))
  | 0x3#7 => some (.mulh (sd w) (sa w) (sb w))
  | 0x4#7 => some (.mulhn (sd w) (sa w) (sb w))
  | 0x5#7 => some (.div (sd w) (sa w) (sb w))
  | 0x6#7 => some (.divn (sd w) (sa w) (sb w))
  | 0x7#7 => some (.rem (sd w) (sa w) (sb w))
  | 0x8#7 => some (.remn (sd w) (sa w) (sb w))
  | 0x10#7 => some (.and (sd w) (sa w) (sb w))
  | 0x11#7 => some (.or (sd w) (sa w) (sb w))
  | 0x12#7 => some (.xor (sd w) (sa w) (sb w))
  | 0x13#7 => some (.andn (sd w) (sa w) (sb w))
  | 0x18#7 => some (.shl (sd w) (sa w) (sb w))
  | 0x19#7 => some (.shr (sd w) (sa w) (sb w))
  | 0x1a#7 => some (.sra (sd w) (sa w) (sb w))
  | 0x1b#7 => some (.rol (sd w) (sa w) (sb w))
  | 0x20#7 => some (.min (sd w) (sa w) (sb w))
  | 0x21#7 => some (.max (sd w) (sa w) (sb w))
  | 0x22#7 => some (.minn (sd w) (sa w) (sb w))
  | 0x23#7 => some (.maxn (sd w) (sa w) (sb w))
  | 0x28#7 => some (.seq (sd w) (sa w) (sb w))
  | 0x29#7 => some (.sne (sd w) (sa w) (sb w))
  | 0x2a#7 => some (.slt (sd w) (sa w) (sb w))
  | 0x2b#7 => some (.sle (sd w) (sa w) (sb w))
  | 0x2c#7 => some (.sltn (sd w) (sa w) (sb w))
  | 0x2d#7 => some (.slen (sd w) (sa w) (sb w))
  | 0x30#7 => whenZero (z w 7 6) (.popc (sd w) (sa w))
  | 0x31#7 => whenZero (z w 7 6) (.clz (sd w) (sa w))
  | 0x32#7 => whenZero (z w 7 6) (.ctz (sd w) (sa w))
  | 0x38#7 => whenZero (z w 7 6) (.sextb (sd w) (sa w))
  | 0x39#7 => whenZero (z w 7 6) (.sexth (sd w) (sa w))
  | 0x3a#7 => whenZero (z w 7 6) (.sextw (sd w) (sa w))
  | 0x3b#7 => whenZero (z w 7 6) (.zextb (sd w) (sa w))
  | 0x3c#7 => whenZero (z w 7 6) (.zexth (sd w) (sa w))
  | 0x3d#7 => whenZero (z w 7 6) (.zextw (sd w) (sa w))
  | _ => none

/-- `gets` and `sets`: imm13[12] is zero, and `gets` has sa = 0, `sets` sd = 0 (R474). The registers whose forms have rows of their own decode to those. -/
def decodeGets (w : Word32) : Option Instr :=
  if z w 12 7 then
    (if w.extractLsb' 0 12 == 0x040 then some (.flagsRead (sd w)) else some (.gets (sd w) (w.extractLsb' 0 12)))
  else none

def decodeSets (w : Word32) : Option Instr :=
  if z w 19 6 && z w 12 1 then
    match w.extractLsb' 0 12 with
    | 0x041#12 => some (.rngseedWrite (sa w))
    | 0x040#12 => some (.flagsWrite (sa w))
    | 0x001#12 => some (.lcbWrite (sa w))
    | 0x020#12 => some (.qbaseWrite (sa w))
    | 0x010#12 => some (.prioWrite (sa w))
    | 0x008#12 => some (.tvecWrite (sa w))
    | r => some (.sets (sa w) r)
  else none

/-- `fence` by kind (R295). -/
def decodeFence (w : Word32) : Option Instr :=
  if z w 5 20 then
    match w.extractLsb' 3 2 with
    | 0#2 => some (.fenceAr (w.extractLsb' 0 3))
    | 1#2 => some (.fenceAcq (w.extractLsb' 0 3))
    | 2#2 => some (.fenceRel (w.extractLsb' 0 3))
    | _ => none
  else none

/-- `qtry` by fn[6] (R204). -/
def decodeQtry (w : Word32) : Option Instr :=
  if w.getLsbD 6 then whenZero (z w 13 6) (.qtryPop (sd w) (sb w) (own w) (queue w))
  else some (.qtryPush (sd w) (sa w) (sb w) (own w) (queue w))

def decodeTlbinv (w : Word32) : Option Instr :=
  match fn w with
  | 0#7 => some (.tlbinvOwn (sd w) (sa w) (sb w))
  | 1#7 => some (.tlbinvAsid (sd w) (sa w) (sb w))
  | 2#7 => some (.tlbinvAll (sd w) (sa w) (sb w))
  | 3#7 => some (.tlbinvAllasid (sd w) (sa w) (sb w))
  | _ => none

def decodeCcinv (w : Word32) : Option Instr :=
  match fn w with
  | 0#7 => some (.ccinvWb (sd w) (sa w) (sb w))
  | 1#7 => some (.ccinvInv (sd w) (sa w) (sb w))
  | 2#7 => some (.ccinvWbinv (sd w) (sa w) (sb w))
  | _ => none

def decodeHalt (w : Word32) : Option Instr :=
  match off25 w with
  | 0#25 => some .halt
  | 1#25 => some .haltGang
  | _ => none

/-- The opcode map of R81; an opcode absent from it, including 0x00, is no instruction. -/
def scalarRow (w : Word32) : Option Instr :=
  match op w with
  | 0x01#7 => decodeInteger w
  | 0x02#7 => some (.addi (sd w) (sa w) (imm13 w))
  | 0x03#7 => some (.andi (sd w) (sa w) (imm13 w))
  | 0x04#7 => some (.ori (sd w) (sa w) (imm13 w))
  | 0x05#7 => some (.xori (sd w) (sa w) (imm13 w))
  | 0x09#7 => some (.slti (sd w) (sa w) (imm13 w))
  | 0x0a#7 => some (.sltni (sd w) (sa w) (imm13 w))
  | 0x06#7 => whenZero (z w 6 7) (.shli (sd w) (sa w) (w.extractLsb' 0 6))
  | 0x07#7 => whenZero (z w 6 7) (.shri (sd w) (sa w) (w.extractLsb' 0 6))
  | 0x08#7 => whenZero (z w 6 7) (.srai (sd w) (sa w) (w.extractLsb' 0 6))
  | 0x0b#7 => some (.ldi (sd w) (imm19 w))
  | 0x0c#7 => some (.ldk (sd w) (imm19 w))
  | 0x0d#7 => whenZero (z w 6 1) (.sel (sd w) (sa w) (sb w) (regOf (w.extractLsb' 0 6)))
  | 0x10#7 => some (.b (off25 w))
  | 0x11#7 => some (.bal (off25 w))
  | 0x12#7 => some (.bc (w.extractLsb' 22 3) (regOf (w.extractLsb' 16 6)) (w.extractLsb' 0 16))
  | 0x13#7 => whenZero (z w 19 6 && z w 0 13) (.jr (sa w))
  | 0x14#7 => whenZero (z w 0 13) (.jalr (sd w) (sa w))
  | 0x15#7 => whenZero (z w 22 3) (.dbnz (regOf (w.extractLsb' 16 6)) (w.extractLsb' 0 16))
  | 0x18#7 => some (.lrun (sd w) (w.extractLsb' 14 5) (w.extractLsb' 0 14))
  | 0x19#7 => whenZero (z w 5 8) (.lrunr (sd w) (sa w) (w.extractLsb' 0 5))
  | 0x1a#7 => whenZero (z w 19 6) (.lwait (imm19 w))
  | 0x1b#7 => whenZero (z w 5 14) (.mget (sd w) (w.extractLsb' 3 2) (w.extractLsb' 0 3).toFin)
  | 0x1c#7 => whenZero (z w 19 6 && z w 5 8) (.mset (sa w) (w.extractLsb' 3 2) (w.extractLsb' 0 3).toFin)
  | 0x20#7 => whenZero (z w 6 1) (.ld (sd w) (sa w) (sb w) (w.getLsbD 5) (w.extractLsb' 2 3) (w.extractLsb' 0 2))
  | 0x21#7 => whenZero (z w 5 2) (.st (sd w) (sa w) (sb w) (w.extractLsb' 2 3) (w.extractLsb' 0 2))
  | 0x22#7 =>
    if w.getLsbD 6 then some (.amoNr (sd w) (sa w) (sb w) (w.extractLsb' 2 4) (w.getLsbD 1) (w.getLsbD 0))
    else some (.amo (sd w) (sa w) (sb w) (w.extractLsb' 2 4) (w.getLsbD 1) (w.getLsbD 0))
  | 0x23#7 => some (.cas (sd w) (sa w) (sb w) (w.getLsbD 6) (regOf (w.extractLsb' 0 6)))
  | 0x24#7 => decodeFence w
  | 0x25#7 => whenZero (z w 5 8 && z w 0 2) (.rlock (sd w) (sa w) (w.extractLsb' 2 3))
  | 0x26#7 => whenZero (z w 5 8 && z w 0 2) (.runlock (sd w) (sa w) (w.extractLsb' 2 3))
  | 0x27#7 => whenZero (z w 5 8 && z w 0 2) (.wlock (sd w) (sa w) (w.extractLsb' 2 3))
  | 0x28#7 => whenZero (z w 5 8 && z w 0 2) (.wunlock (sd w) (sa w) (w.extractLsb' 2 3))
  | 0x29#7 => whenZero (z w 0 13) (.pause (sd w) (sa w))
  | 0x2a#7 => whenZero (z w 19 6 && !w.getLsbD 6 && w.getLsbD 5) (.qdef (sa w) (sb w) (queue w))
  | 0x2b#7 => whenZero (z w 19 6 && z w 6 1) (.push (sa w) (sb w) (own w) (queue w))
  | 0x2c#7 => whenZero (z w 13 6 && z w 6 1) (.pop (sd w) (sb w) (own w) (queue w))
  | 0x2d#7 => decodeQtry w
  | 0x2e#7 => whenZero (z w 13 6 && z w 6 1) (.qinfo (sd w) (sb w) (own w) (queue w))
  | 0x30#7 => whenZero (z w 19 6 && z w 0 2) (.cpy (sa w) (sb w) (w.extractLsb' 5 2) (w.extractLsb' 2 3))
  | 0x31#7 => whenZero (z w 19 6 && z w 0 5) (.cpyg (sa w) (sb w) (w.extractLsb' 5 2))
  | 0x32#7 => whenZero (z w 13 12) (.waitc (w.extractLsb' 4 9) (w.extractLsb' 0 4))
  | 0x33#7 => whenZero (z w 19 6 && z w 0 7) (.mlds (sa w) (sb w))
  | 0x34#7 => whenZero (z w 0 25) .mswap
  | 0x35#7 => whenZero (z w 19 6 && z w 0 7) (.mloop (sa w) (sb w))
  | 0x36#7 => whenZero (z w 19 6 && z w 5 2 && z w 0 2) (.cstore (sa w) (sb w) (w.extractLsb' 2 3))
  | 0x37#7 => whenZero (z w 19 6 && z w 0 7) (.cclr (sa w) (sb w))
  | 0x38#7 => whenZero (z w 19 6 && z w 2 11) (.xprog (sa w) (array w))
  | 0x39#7 => whenZero (z w 19 6 && z w 2 11) (.xmvm (sa w) (array w))
  | 0x3a#7 => whenZero (z w 2 23) (.xtrim (array w))
  | 0x3b#7 => whenZero (z w 2 11) (.xcal (sd w) (sa w) (array w))
  | 0x3c#7 => whenZero (z w 19 6 && z w 0 7) (.nlaunch (sa w) (sb w))
  | 0x3d#7 => whenZero (z w 19 6 && z w 0 7) (.nred (sa w) (sb w))
  | 0x3e#7 =>
    if w.getLsbD 0 then whenZero (z w 19 6 && z w 1 6) (.nrowCopy (sa w) (sb w))
    else whenZero (z w 19 6 && z w 1 6) (.nrowZero (sa w) (sb w))
  | 0x3f#7 => whenZero (z w 0 25) .nfence
  | 0x40#7 => whenZero (z w 0 13) (.flaunch (sd w) (sa w))
  | 0x41#7 => whenZero (z w 0 7) (.pdisc (sd w) (sa w) (sb w))
  | 0x70#7 => decodeGets w
  | 0x71#7 => decodeSets w
  | 0x72#7 => whenZero (z w 16 9) (.trap (w.extractLsb' 0 16))
  | 0x73#7 => whenZero (z w 0 25) .sret
  | 0x74#7 => whenZero (z w 0 7) (.mapft (sd w) (sa w) (sb w))
  | 0x75#7 => decodeTlbinv w
  | 0x76#7 => decodeCcinv w
  | 0x77#7 => decodeHalt w
  | 0x78#7 => whenZero (z w 16 9) (.brk (w.extractLsb' 0 16))
  | _ => none

/-- A scalar word, decoded or rejected (R82). -/
def decodeScalar (w : Word32) : Decoded :=
  match scalarRow w with
  | some i => .ok i
  | none => .error .scalarWord

/-! ## Lane words -/

/-- The lane opcode map of R112; `be` selects the bounded-error rows. The candle-only opcodes 0x60–0x65 are absent (R113). -/
def laneRow (o : BitVec 8) (be : Bool) (f : LaneFields) : Option Instr :=
  match o with
  | 0x01#8 => some (if be then .vaddBe f else .vadd f)
  | 0x02#8 => some (.vsub f)
  | 0x03#8 => some (if be then .vmulBe f else .vmul f)
  | 0x04#8 => some (if be then .vfmaBe f else .vfma f)
  | 0x05#8 => some (.vmin f)
  | 0x06#8 => some (if be then .vmaxBe f else .vmax f)
  | 0x07#8 => some (.vabs f)
  | 0x08#8 => some (.vneg f)
  | 0x09#8 => some (.vdiv f)
  | 0x0a#8 => some (.vsqrt f)
  | 0x0b#8 => some (.vrcp f)
  | 0x0c#8 => some (.vrsq f)
  | 0x0d#8 => some (.vexp2 f)
  | 0x0e#8 => some (.vlog2 f)
  | 0x0f#8 => some (.vrnd f)
  | 0x10#8 => some (.viadd f)
  | 0x11#8 => some (.visub f)
  | 0x12#8 => some (.vimul f)
  | 0x13#8 => some (.vimulh f)
  | 0x14#8 => some (.vimad f)
  | 0x15#8 => some (.vimin f)
  | 0x16#8 => some (.vimax f)
  | 0x17#8 => some (.viabs f)
  | 0x18#8 => some (.vand f)
  | 0x19#8 => some (.vor f)
  | 0x1a#8 => some (.vxor f)
  | 0x1b#8 => some (.vnot f)
  | 0x1c#8 => some (.vshl f)
  | 0x1d#8 => some (.vshr f)
  | 0x1e#8 => some (.vpopc f)
  | 0x1f#8 => some (.vclz f)
  | 0x28#8 => some (.vcmp f)
  | 0x29#8 => some (.vsel f)
  | 0x2a#8 => some (.vclass f)
  | 0x2b#8 => some (.vmov f)
  | 0x2c#8 => some (.vlane f)
  | 0x30#8 => some (if be then .vcvtBe f else .vcvt f)
  | 0x31#8 => some (.vqblk f)
  | 0x32#8 => some (.vdqblk f)
  | 0x38#8 => some (.afma f)
  | 0x39#8 => some (.aadd f)
  | 0x3a#8 => some (.aclr f)
  | 0x3b#8 => some (.anarrow f)
  | 0x3c#8 => some (.awiden f)
  | 0x41#8 => some (.vaccept f)
  | 0x42#8 => some (.vbound f)
  | 0x48#8 => some (.vshuf f)
  | 0x49#8 => some (.vbcast f)
  | 0x4a#8 => some (.vredu f)
  | 0x4b#8 => some (.vscan f)
  | 0x4c#8 => some (.vmatch f)
  | 0x4d#8 => some (.vvote f)
  | 0x4e#8 => some (.vsort f)
  | 0x4f#8 => some (.vcompress f)
  | 0x50#8 => some (.vld f)
  | 0x51#8 => some (.vst f)
  | 0x52#8 => some (if be then .vldlBe f else .vldl f)
  | 0x53#8 => some (.vstl f)
  | 0x54#8 => some (.vatom f)
  | 0x55#8 => some (.vred f)
  | 0x56#8 => some (.vcas f)
  | 0x57#8 => some (.lcopy f)
  | 0x58#8 => some (.vpref f)
  | _ => none

/-- The operand codes and type of a lane word as fields (R34, R106). -/
def laneFieldsOf (w : BitVec 96) : Except Reject LaneFields :=
  match Ty.ofCode (w.extractLsb' 16 8), Opnd.ofCode (w.extractLsb' 32 9), Opnd.ofCode (w.extractLsb' 41 9), Opnd.ofCode (w.extractLsb' 50 9) with
  | some ty, some dst, some a, some b =>
    .ok { ty, dst, a, b, hi4 := w.extractLsb' 12 4, sel := w.extractLsb' 9 3, cond := w.extractLsb' 6 3, wb := w.getLsbD 5,
          be := w.getLsbD 4, sat := w.getLsbD 3, sr := w.getLsbD 2, rm := w.extractLsb' 0 2, hi5 := w.extractLsb' 59 5,
          w2 := w.extractLsb' 64 32 }
  | none, _, _, _ => .error .laneType
  | _, _, _, _ => .error .laneOperand

/-- The opcode of a lane word, W0 [31:24]. -/
def laneOpcode (w : BitVec 96) : BitVec 8 := w.extractLsb' 24 8

/-- The opcode has a row in R112. -/
def laneOpcodeListed (o : BitVec 8) : Bool :=
  let n := o.toNat
  (0x01 ≤ n && n ≤ 0x1F) || (0x28 ≤ n && n ≤ 0x2C) || (0x30 ≤ n && n ≤ 0x32) || (0x38 ≤ n && n ≤ 0x3C) || n == 0x41 || n == 0x42 ||
    (0x48 ≤ n && n ≤ 0x58)

/-- A lane word of a core's lane stream, decoded or rejected (R112, R113). W0 is bits 31:0 of the argument, W1 bits 63:32, W2 bits 95:64. -/
def decodeLane (w : BitVec 96) : Decoded :=
  if laneOpcodeListed (laneOpcode w) then
    match laneFieldsOf w with
    | .error e => .error e
    | .ok f =>
      match laneRow (laneOpcode w) f.be f with
      | none => .error .laneOpcode
      | some i => if i.wellFormed then .ok i else .error .laneForm
  else .error .laneOpcode

/-- The instruction that a lane word's opcode and fields name, whether or not its encoding is one the tables list: what the check of chains goes by,
which comes before Undefined (R30, R114). A reserved operand code names no register, and a reserved type code no pair. -/
def laneShape (w : BitVec 96) : Option Instr :=
  let opnd (lo : Nat) : Opnd := (Opnd.ofCode (w.extractLsb' lo 9)).getD .zero
  let f : LaneFields :=
    { ty := (Ty.ofCode (w.extractLsb' 16 8)).getD .n32, dst := opnd 32, a := opnd 41, b := opnd 50, hi4 := w.extractLsb' 12 4
      sel := w.extractLsb' 9 3, cond := w.extractLsb' 6 3, wb := w.getLsbD 5, be := w.getLsbD 4, sat := w.getLsbD 3, sr := w.getLsbD 2
      rm := w.extractLsb' 0 2, hi5 := w.extractLsb' 59 5, w2 := w.extractLsb' 64 32 }
  if laneOpcodeListed (laneOpcode w) then laneRow (laneOpcode w) f.be f else none

/-- The candle-only opcodes of a candle program (R416, R417). -/
def decodeCandleOnly (w : BitVec 96) : Decoded :=
  let w0 : Word32 := w.extractLsb' 0 32
  let w1 : Word32 := w.extractLsb' 32 32
  let w2 : Word32 := w.extractLsb' 64 32
  let dst := Opnd.ofCode (w1.extractLsb' 0 9)
  let a := Opnd.ofCode (w1.extractLsb' 9 9)
  let plain : Bool := w1.extractLsb' 18 14 == 0
  let keep : Instr → Decoded := fun i => if i.wellFormed then .ok i else .error .laneForm
  match laneOpcode w with
  | 0x60#8 =>
    if w0.extractLsb' 0 24 == 0 && w2 == 0 && w1.extractLsb' 0 27 == 0 && w1.extractLsb' 30 2 == 0 then .ok (.nif (w1.extractLsb' 27 3).toFin)
    else .error .laneForm
  | 0x61#8 => if w0.extractLsb' 0 24 == 0 && w1 == 0 && w2 == 0 then .ok .nelse else .error .laneForm
  | 0x62#8 => if w0.extractLsb' 0 24 == 0 && w1 == 0 && w2 == 0 then .ok .nendif else .error .laneForm
  | 0x63#8 =>
    match dst, a with
    | some d, some o => if w0.extractLsb' 0 24 == 0x0B0000 && plain then keep (.ncol d o w2) else .error .laneForm
    | _, _ => .error .laneOperand
  | 0x64#8 =>
    match dst, a with
    | some d, some o =>
      if w0.extractLsb' 0 24 == 0x0B0000 && plain && d == .unused && w2.extractLsb' 9 23 == 0 then keep (.ncolw o (w2.extractLsb' 0 9))
      else .error .laneForm
    | _, _ => .error .laneOperand
  | 0x65#8 =>
    match dst, a with
    | some d, some o => if w0.extractLsb' 0 24 == 0 && plain && d == .unused then keep (.nact o w2) else .error .laneForm
    | _, _ => .error .laneOperand
  | _ => .error .laneOpcode

/-- One scalar word, or the three words of a lane instruction, decoded (R33, R34). -/
def decode : List Word32 → Decoded
  | [w] => decodeScalar w
  | [w0, w1, w2] => decodeLane (w2 ++ w1 ++ w0)
  | _ => .error .length

/-- The instruction of a row of the opcode table from its bits, as the table numbers them. -/
def decodeTableWord (nbits w : Nat) : Option Instr :=
  if nbits ≤ 32 then
    match decodeScalar (BitVec.ofNat 32 w) with
    | .ok i => some i
    | .error _ => none
  else
    match decodeLane (BitVec.ofNat 96 w), decodeCandleOnly (BitVec.ofNat 96 w) with
    | .ok i, _ => some i
    | .error _, .ok i => some i
    | .error _, .error _ => none

/-! ## The encoder -/

/-- A six-bit register field. -/
def Reg.bits (r : Reg) : BitVec 6 := BitVec.ofFin r

/-- Format SR (R33). -/
def encSR (o : BitVec 7) (d a b : Reg) (fn : BitVec 7) : Word32 := o ++ Reg.bits d ++ Reg.bits a ++ Reg.bits b ++ fn
/-- Format SI. -/
def encSI (o : BitVec 7) (d a : Reg) (i : BitVec 13) : Word32 := o ++ Reg.bits d ++ Reg.bits a ++ i
/-- Format SU. -/
def encSU (o : BitVec 7) (d : Reg) (i : BitVec 19) : Word32 := o ++ Reg.bits d ++ i
/-- Format SB. -/
def encSB (o : BitVec 7) (c : BitVec 3) (a : Reg) (i : BitVec 16) : Word32 := o ++ c ++ Reg.bits a ++ i
/-- Format SJ. -/
def encSJ (o : BitVec 7) (i : BitVec 25) : Word32 := o ++ i
/-- Format SL. -/
def encSL (o : BitVec 7) (k : Reg) (c : BitVec 5) (i : BitVec 14) : Word32 := o ++ Reg.bits k ++ c ++ i

def bit1 (b : Bool) : BitVec 1 := BitVec.ofBool b
def arrayBits (n : Fin 4) : BitVec 2 := BitVec.ofFin n
def maskBits (k : Fin 8) : BitVec 3 := BitVec.ofFin k
def queueBits (q : Fin 32) : BitVec 5 := BitVec.ofFin q

/-- The word of a scalar instruction; none for lane instructions and events. -/
def encodeScalar : Instr → Option Word32
  | .add d a rb => some (encSR 0x01 d a rb 0x00)
  | .sub d a rb => some (encSR 0x01 d a rb 0x01)
  | .mul d a rb => some (encSR 0x01 d a rb 0x02)
  | .mulh d a rb => some (encSR 0x01 d a rb 0x03)
  | .mulhn d a rb => some (encSR 0x01 d a rb 0x04)
  | .div d a rb => some (encSR 0x01 d a rb 0x05)
  | .divn d a rb => some (encSR 0x01 d a rb 0x06)
  | .rem d a rb => some (encSR 0x01 d a rb 0x07)
  | .remn d a rb => some (encSR 0x01 d a rb 0x08)
  | .and d a rb => some (encSR 0x01 d a rb 0x10)
  | .or d a rb => some (encSR 0x01 d a rb 0x11)
  | .xor d a rb => some (encSR 0x01 d a rb 0x12)
  | .andn d a rb => some (encSR 0x01 d a rb 0x13)
  | .shl d a rb => some (encSR 0x01 d a rb 0x18)
  | .shr d a rb => some (encSR 0x01 d a rb 0x19)
  | .sra d a rb => some (encSR 0x01 d a rb 0x1a)
  | .rol d a rb => some (encSR 0x01 d a rb 0x1b)
  | .min d a rb => some (encSR 0x01 d a rb 0x20)
  | .max d a rb => some (encSR 0x01 d a rb 0x21)
  | .minn d a rb => some (encSR 0x01 d a rb 0x22)
  | .maxn d a rb => some (encSR 0x01 d a rb 0x23)
  | .seq d a rb => some (encSR 0x01 d a rb 0x28)
  | .sne d a rb => some (encSR 0x01 d a rb 0x29)
  | .slt d a rb => some (encSR 0x01 d a rb 0x2a)
  | .sle d a rb => some (encSR 0x01 d a rb 0x2b)
  | .sltn d a rb => some (encSR 0x01 d a rb 0x2c)
  | .slen d a rb => some (encSR 0x01 d a rb 0x2d)
  | .popc d a => some (encSR 0x01 d a 0 0x30)
  | .clz d a => some (encSR 0x01 d a 0 0x31)
  | .ctz d a => some (encSR 0x01 d a 0 0x32)
  | .sextb d a => some (encSR 0x01 d a 0 0x38)
  | .sexth d a => some (encSR 0x01 d a 0 0x39)
  | .sextw d a => some (encSR 0x01 d a 0 0x3a)
  | .zextb d a => some (encSR 0x01 d a 0 0x3b)
  | .zexth d a => some (encSR 0x01 d a 0 0x3c)
  | .zextw d a => some (encSR 0x01 d a 0 0x3d)
  | .addi d a i => some (encSI 0x02 d a i)
  | .andi d a i => some (encSI 0x03 d a i)
  | .ori d a i => some (encSI 0x04 d a i)
  | .xori d a i => some (encSI 0x05 d a i)
  | .slti d a i => some (encSI 0x09 d a i)
  | .sltni d a i => some (encSI 0x0a d a i)
  | .shli d a n => some (encSI 0x06 d a (0#7 ++ n))
  | .shri d a n => some (encSI 0x07 d a (0#7 ++ n))
  | .srai d a n => some (encSI 0x08 d a (0#7 ++ n))
  | .ldi d i => some (encSU 0x0B d i)
  | .ldk d i => some (encSU 0x0C d i)
  | .sel d a rb c => some (encSR 0x0D d a rb (0#1 ++ Reg.bits c))
  | .b o => some (encSJ 0x10 o)
  | .bal o => some (encSJ 0x11 o)
  | .bc c a o => some (encSB 0x12 c a o)
  | .jr a => some (encSR 0x13 0 a 0 0)
  | .jalr d a => some (encSR 0x14 d a 0 0)
  | .dbnz a o => some (encSB 0x15 0 a o)
  | .lrun k c i => some (encSL 0x18 k c i)
  | .lrunr k a c => some (encSR 0x19 k a 0 (0#2 ++ c))
  | .lwait n => some (encSU 0x1A 0 n)
  | .mget d p k => some (encSR 0x1B d 0 0 (0#2 ++ p ++ maskBits k))
  | .mset a p k => some (encSR 0x1C 0 a 0 (0#2 ++ p ++ maskBits k))
  | .ld d a rb g p z => some (encSR 0x20 d a rb (0#1 ++ bit1 g ++ p ++ z))
  | .st d a rb p z => some (encSR 0x21 d a rb (0#2 ++ p ++ z))
  | .amo d a rb o z l => some (encSR 0x22 d a rb (0#1 ++ o ++ bit1 z ++ bit1 l))
  | .amoNr d a rb o z l => some (encSR 0x22 d a rb (1#1 ++ o ++ bit1 z ++ bit1 l))
  | .cas d a rb z p => some (encSR 0x23 d a rb (bit1 z ++ Reg.bits p))
  | .fenceAr s => some (encSI 0x24 0 0 (0#8 ++ 0#2 ++ s))
  | .fenceAcq s => some (encSI 0x24 0 0 (0#8 ++ 1#2 ++ s))
  | .fenceRel s => some (encSI 0x24 0 0 (0#8 ++ 2#2 ++ s))
  | .rlock d a p => some (encSR 0x25 d a 0 (0#2 ++ p ++ 0#2))
  | .runlock d a p => some (encSR 0x26 d a 0 (0#2 ++ p ++ 0#2))
  | .wlock d a p => some (encSR 0x27 d a 0 (0#2 ++ p ++ 0#2))
  | .wunlock d a p => some (encSR 0x28 d a 0 (0#2 ++ p ++ 0#2))
  | .pause p a => some (encSI 0x29 p a 0)
  | .qdef a rb q => some (encSR 0x2A 0 a rb (0#1 ++ 1#1 ++ queueBits q))
  | .push a rb o q => some (encSR 0x2B 0 a rb (0#1 ++ bit1 o ++ queueBits q))
  | .pop d rb o q => some (encSR 0x2C d 0 rb (0#1 ++ bit1 o ++ queueBits q))
  | .qtryPush d a rb o q => some (encSR 0x2D d a rb (0#1 ++ bit1 o ++ queueBits q))
  | .qtryPop d rb o q => some (encSR 0x2D d 0 rb (1#1 ++ bit1 o ++ queueBits q))
  | .qinfo d rb o q => some (encSR 0x2E d 0 rb (0#1 ++ bit1 o ++ queueBits q))
  | .cpy a rb t l => some (encSR 0x30 0 a rb (t ++ l ++ 0#2))
  | .cpyg a rb t => some (encSR 0x31 0 a rb (t ++ 0#5))
  | .waitc n c => some (encSI 0x32 0 0 (n ++ c))
  | .mlds a rb => some (encSR 0x33 0 a rb 0)
  | .mswap => some (encSR 0x34 0 0 0 0)
  | .mloop a rb => some (encSR 0x35 0 a rb 0)
  | .cstore a rb l => some (encSR 0x36 0 a rb (0#2 ++ l ++ 0#2))
  | .cclr a rb => some (encSR 0x37 0 a rb 0)
  | .xprog a n => some (encSR 0x38 0 a 0 (0#5 ++ arrayBits n))
  | .xmvm a n => some (encSR 0x39 0 a 0 (0#5 ++ arrayBits n))
  | .xtrim n => some (encSR 0x3A 0 0 0 (0#5 ++ arrayBits n))
  | .xcal d a n => some (encSR 0x3B d a 0 (0#5 ++ arrayBits n))
  | .nlaunch a rb => some (encSR 0x3C 0 a rb 0)
  | .nred a rb => some (encSR 0x3D 0 a rb 0)
  | .nrowZero a rb => some (encSR 0x3E 0 a rb 0)
  | .nrowCopy a rb => some (encSR 0x3E 0 a rb 1)
  | .nfence => some (encSI 0x3F 0 0 0)
  | .flaunch d a => some (encSR 0x40 d a 0 0)
  | .pdisc d a rb => some (encSR 0x41 d a rb 0)
  | .gets d r => some (encSI 0x70 d 0 (0#1 ++ r))
  | .sets a r => some (encSI 0x71 0 a (0#1 ++ r))
  | .trap c => some (encSU 0x72 0 (0#3 ++ c))
  | .sret => some (encSJ 0x73 0)
  | .mapft d a rb => some (encSR 0x74 d a rb 0)
  | .tlbinvOwn d a rb => some (encSR 0x75 d a rb 0)
  | .tlbinvAsid d a rb => some (encSR 0x75 d a rb 1)
  | .tlbinvAll d a rb => some (encSR 0x75 d a rb 2)
  | .tlbinvAllasid d a rb => some (encSR 0x75 d a rb 3)
  | .ccinvWb d a rb => some (encSR 0x76 d a rb 0)
  | .ccinvInv d a rb => some (encSR 0x76 d a rb 1)
  | .ccinvWbinv d a rb => some (encSR 0x76 d a rb 2)
  | .halt => some (encSJ 0x77 0)
  | .haltGang => some (encSJ 0x77 1)
  | .brk c => some (encSU 0x78 0 (0#3 ++ c))
  | .rngseedWrite a => some (encSI 0x71 0 a (0#1 ++ 0x041#12))
  | .flagsRead d => some (encSI 0x70 d 0 (0#1 ++ 0x040#12))
  | .flagsWrite a => some (encSI 0x71 0 a (0#1 ++ 0x040#12))
  | .lcbWrite a => some (encSI 0x71 0 a (0#1 ++ 0x001#12))
  | .qbaseWrite a => some (encSI 0x71 0 a (0#1 ++ 0x020#12))
  | .prioWrite a => some (encSI 0x71 0 a (0#1 ++ 0x010#12))
  | .tvecWrite a => some (encSI 0x71 0 a (0#1 ++ 0x008#12))
  | _ => none

/-- The 96 bits of a lane instruction from its opcode and fields (R34, R106). -/
def encLane (o : BitVec 8) (f : LaneFields) : BitVec 96 :=
  f.w2 ++ (f.hi5 ++ f.b.code ++ f.a.code ++ f.dst.code) ++
    (o ++ f.ty.code ++ f.hi4 ++ f.sel ++ f.cond ++ bit1 f.wb ++ bit1 f.be ++ bit1 f.sat ++ bit1 f.sr ++ f.rm)

/-- The opcode and fields of a lane instruction (R112); the bounded-error rows share their opcode with the plain ones. -/
def laneParts : Instr → Option (BitVec 8 × LaneFields)
  | .vadd f => some (0x01, f)
  | .vaddBe f => some (0x01, f)
  | .vsub f => some (0x02, f)
  | .vmul f => some (0x03, f)
  | .vmulBe f => some (0x03, f)
  | .vfma f => some (0x04, f)
  | .vfmaBe f => some (0x04, f)
  | .vmin f => some (0x05, f)
  | .vmax f => some (0x06, f)
  | .vmaxBe f => some (0x06, f)
  | .vabs f => some (0x07, f)
  | .vneg f => some (0x08, f)
  | .vdiv f => some (0x09, f)
  | .vsqrt f => some (0x0a, f)
  | .vrcp f => some (0x0b, f)
  | .vrsq f => some (0x0c, f)
  | .vexp2 f => some (0x0d, f)
  | .vlog2 f => some (0x0e, f)
  | .vrnd f => some (0x0f, f)
  | .viadd f => some (0x10, f)
  | .visub f => some (0x11, f)
  | .vimul f => some (0x12, f)
  | .vimulh f => some (0x13, f)
  | .vimad f => some (0x14, f)
  | .vimin f => some (0x15, f)
  | .vimax f => some (0x16, f)
  | .viabs f => some (0x17, f)
  | .vand f => some (0x18, f)
  | .vor f => some (0x19, f)
  | .vxor f => some (0x1a, f)
  | .vnot f => some (0x1b, f)
  | .vshl f => some (0x1c, f)
  | .vshr f => some (0x1d, f)
  | .vpopc f => some (0x1e, f)
  | .vclz f => some (0x1f, f)
  | .vcmp f => some (0x28, f)
  | .vsel f => some (0x29, f)
  | .vclass f => some (0x2a, f)
  | .vmov f => some (0x2b, f)
  | .vlane f => some (0x2c, f)
  | .vcvt f => some (0x30, f)
  | .vcvtBe f => some (0x30, f)
  | .vqblk f => some (0x31, f)
  | .vdqblk f => some (0x32, f)
  | .afma f => some (0x38, f)
  | .aadd f => some (0x39, f)
  | .aclr f => some (0x3a, f)
  | .anarrow f => some (0x3b, f)
  | .awiden f => some (0x3c, f)
  | .vaccept f => some (0x41, f)
  | .vbound f => some (0x42, f)
  | .vshuf f => some (0x48, f)
  | .vbcast f => some (0x49, f)
  | .vredu f => some (0x4a, f)
  | .vscan f => some (0x4b, f)
  | .vmatch f => some (0x4c, f)
  | .vvote f => some (0x4d, f)
  | .vsort f => some (0x4e, f)
  | .vcompress f => some (0x4f, f)
  | .vld f => some (0x50, f)
  | .vst f => some (0x51, f)
  | .vldl f => some (0x52, f)
  | .vldlBe f => some (0x52, f)
  | .vstl f => some (0x53, f)
  | .vatom f => some (0x54, f)
  | .vred f => some (0x55, f)
  | .vcas f => some (0x56, f)
  | .lcopy f => some (0x57, f)
  | .vpref f => some (0x58, f)
  | _ => none

/-- The word of a candle-only instruction (R416, R417). -/
def encodeCandleOnly : Instr → Option (BitVec 96)
  | .nif k => some (0#32 ++ (0#2 ++ maskBits k ++ 0#27) ++ 0x60000000#32)
  | .nelse => some (0#64 ++ 0x61000000#32)
  | .nendif => some (0#64 ++ 0x62000000#32)
  | .ncol d a w2 => some (w2 ++ (0#14 ++ a.code ++ d.code) ++ 0x630B0000#32)
  | .ncolw a c => some ((0#23 ++ c) ++ (0#14 ++ a.code ++ 0#9) ++ 0x640B0000#32)
  | .nact a w2 => some (w2 ++ (0#14 ++ a.code ++ 0#9) ++ 0x65000000#32)
  | _ => none

/-- The three words of 96 bits, first word first. -/
def laneWords (w : BitVec 96) : List Word32 := [w.extractLsb' 0 32, w.extractLsb' 32 32, w.extractLsb' 64 32]

/-- The words of an instruction, first word first; an event has none. -/
def encode (i : Instr) : List Word32 :=
  match encodeScalar i with
  | some w => [w]
  | none =>
    match laneParts i with
    | some (o, f) => laneWords (encLane o f)
    | none =>
      match encodeCandleOnly i with
      | some w => laneWords w
      | none => []

end Sys2Proof
end

