-- ==== Sys2Proof/Config.lean ====
section
/-! DEFINITION. What an implementation fixes, and the free values: constants without a body, of which nothing can be proved.
Each stands for a value the spec leaves open; the counter or the operands it is applied to are named beside it. -/

namespace Sys2Proof.Config

/-- A fresh number below `2^32` for the n-th open choice of an order among equals (R8, R294, R297, R352, R411). DESIGN CHOICE, safe: log 8. -/
opaque freeChoice : Nat → Nat

/-- What a latch holds in a lane that the current chain has not written (R11, R31): counter, latch, lane. DESIGN CHOICE, safe: log 100. -/
opaque latchValue : Nat → Nat → Nat → BitVec 64

/-- The converter reading k(j) of one `xmvm` (R388): arguments are the free-value counter and the column (512 and 513 are ref0, ref1).
DESIGN CHOICE, safe: log 9. -/
opaque analogReading : Nat → Nat → Int

/-- The code a cell reaches when a write-verify towards the target ends (R395): counter, row, column, target. DESIGN CHOICE, safe: log 9. -/
opaque achievedCode : Nat → Nat → Nat → Int → Int

/-- The results of an `xtrim` (R398): gain correction, offset and readings of column j, and the worst trimmed error in 2^-16. -/
opaque trimGain : Nat → BitVec 16
opaque trimOffset : Nat → BitVec 16
opaque trimReading : Nat → BitVec 32
opaque trimError : Nat → Nat

/-- Whether the calibration state of an array shows a parity error when an operation reads it (R393). -/
opaque parityError : Nat → Bool

/-- A byte read under another key setting than it was written under (R495): written epoch, reading epoch, address, stored byte.
DESIGN CHOICE, unsafe: log 10. -/
opaque cipherByte : Nat → Nat → Nat → Byte → Byte

/-- The LLC set of a granule on a chiplet: R247 gives the ways and the size, not the index function. DESIGN CHOICE, unsafe: log 11. -/
opaque llcSet : Nat → Nat → Nat

/-- How many moves of a faulting copy chunk were performed before the fault (R358). DESIGN CHOICE, unsafe: log 12. -/
opaque partialChunk : Nat → Nat

/-- The bank of a buffer that holds a byte of a crew's region (R263): the crew's first resident index, the buffer, the offset in the region. The spec
does not place regions in banks. DESIGN CHOICE, safe: log 70. -/
opaque regionBank : Nat → Nat → Nat → Nat

/-- A dword of the save area whose format belongs to the implementation (R479): the free-value counter and the dword's index.
DEDUCED, unsafe: log 60. -/
opaque recordDword : Nat → Nat → BitVec 64

/-- What the boot flash of the package holds, and whether a public key and RSA-3072 signature that come with an image verify for the
image's digest against the key hash in the fuses (R493): the spec gives neither the images nor the key. DESIGN CHOICE, safe: log 13. -/
opaque bootFlash : List FlashImage
opaque signatureOk : Nat → List Byte → Bool

/-- Values the boot leaves open: ROM version and fuses (R492, R494), the certificate's digest, signature bytes (R494).
DESIGN CHOICE, safe: log 13. -/
opaque romAndFuses : Nat
opaque certificateDigest : Nat
opaque spdmSignature : Nat → Nat

/-- Frames reserved for firmware on each chiplet (R498). -/
opaque reservedFrames : Nat

/-- What the monitors of a wavelength-lane read (R523): the rise of the symbol errors, received power, temperature. DESIGN CHOICE, safe: log 14. -/
opaque laneReading : Nat → BitVec 36

/-- The bias that a wavelength-lane's laser asks for (R523, R526): its latch takes it up to the cap. DESIGN CHOICE, safe: log 14. -/
opaque laserBias : Nat → BitVec 12

/-- How many of a port's flits fall in the last 10 µs when FLOAD is read (R525). DESIGN CHOICE, safe: log 14. -/
opaque flitLoad : Nat → Nat

/-- Where a host-supplied image ends and the public key and signature that come with it begin (R493, R500). DESIGN CHOICE, safe: log 13. -/
opaque imageLength : List Byte → Nat

end Sys2Proof.Config
end

