-- ==== Sys2Proof/Machine/State.lean ====
section
/-! DEFINITION. The machine's state as plain data: strands, crews, gangs and fields, cores and their engines, memory and its copies,
the dies, the fabric and the host die. Each structure's docstring names the rules of the spec that give it. -/

namespace Sys2Proof.Machine

/-- Why a step stops without a next state. -/
inductive Fault where
  /-- Raised by `step` when the agenda gives a turn to a strand that is not resident on any live die. Safe: no device does this. -/
  | noStrand
  deriving DecidableEq, Repr

/-- Why an instruction has no meaning. -/
inductive Refusal where
  /-- Raised by an arm of `exec` whose instruction has no meaning yet. Safe: the machine stops. -/
  | notModelled (mnemonic : String)
  deriving DecidableEq, Repr

/-! ## Memory and tables -/

/-- Bytes by address, in canonical form: addresses strictly rising, no byte 0, which is what an unlisted address reads as. -/
abbrev Mem := List Host.Cell

/-- Addresses rise strictly above `lo` and no listed byte is 0. -/
def Mem.wfFrom : Nat → Mem → Bool
  | _, [] => true
  | lo, (a, b) :: m => decide (lo ≤ a) && b != 0 && Mem.wfFrom (a + 1) m

/-- The canonical form. -/
def Mem.wf (m : Mem) : Bool := m.wfFrom 0

/-- A sparse table: entries by key; a key that is absent stands for the table's reset entry. -/
abbrev Table (κ α : Type) := List (κ × α)

/-! ## Accesses in flight -/

/-- What an access does at its execution point. `atomic` carries the operation code of R290's scalar column. -/
inductive Kind where
  | load
  | store
  | atomic (op : BitVec 4) (ret : Bool)
  | cas
  | rlock
  | wlock
  | runlock
  | wunlock
  | prefetch (l1 : Bool)
  /-- `mapft`, `pdisc`, `tlbinv`, `ccinv` and `flaunch`, which hold a waiting-table entry until their result (R468–R473, R503). -/
  | operation
  deriving DecidableEq, Repr

/-- Which stream issued an access. -/
inductive Origin where
  | scalar (d : Reg) (sign : Bool)
  | lane (op : Nat) (l : Lane)
  deriving DecidableEq, Repr

/-- How far an access has come. -/
inductive Status where
  | issued
  | walking
  | reviving
  /-- Waits for an ATS completion or a page response (R529, R530). -/
  | host
  | pageRequest
  /-- A request is outstanding at a peer device (R511, R512). -/
  | peer
  /-- Parked in a lock's waiter list (R218). -/
  | waiter
  | done (v : Word64)
  | faulted (cause : BitVec 8)
  deriving DecidableEq, Repr

/-- An access between its issue and its reply (R265, R302, R457). Accesses are numbered in issue order. `run` is the lane run of a lane
access and `after` the number below which runs are performed before it (R311); `sent`: the L1 has taken the bytes of the store (R241).
`line` is the granule a load carries for the fill of an L1 line, with its r and sup bits. -/
structure Access where
  n : Nat
  run : Nat
  after : Nat
  sent : Bool
  strand : StrandId
  gang : GangId
  origin : Origin
  entry : Bool
  kind : Kind
  space : BitVec 3
  va : Word64
  size : Nat
  asid : BitVec 16
  sup : Bool
  data : Word64
  cmp : Word64
  pol : Word32
  line : Option (List Byte × Bool × Bool)
  status : Status
  deriving DecidableEq, Repr

/-! ## The strand -/

/-- What a pending scalar register waits for (R24, R25, R83): a lane run, or the reply of an access or of an operation. -/
inductive Source where
  | run (n : Nat)
  | reply (n : Nat)
  deriving DecidableEq, Repr

/-- Identity (R179–R182) and launch data of a strand. -/
structure Ident where
  id : StrandId
  gang : GangId
  gx : Nat
  gy : Nat
  lw : Nat
  lh : Nat
  peer : Nat
  cs : Nat
  crewn : Nat
  role : BitVec 2
  deriving DecidableEq, Repr

/-- The lane register files (R11, R65). The bounded tags are bits of `tag`. -/
structure LaneFile where
  v : Vector (Vector Word32 96) 128
  tag : BitVec 128
  a : Vector (Vector Word64 96) 32
  m : Vector Mask 8
  x : Vector (Vector Word64 96) 4
  gen : Vector Word32 96
  deriving DecidableEq, Repr

/-- A run of the lane queue (R22, R23): its words, captured values, the index of the next instruction, the done sets of
instructions that completed before a fault (R459), the registers each instruction
marks pending (R24), and the number below which runs are complete before this run's accesses (R311). -/
structure Run where
  id : Nat
  start : Word64
  words : List (BitVec 96)
  next : Nat
  k : List Word64
  em : Mask
  pol : List (Reg × Word32)
  done : List (Nat × Mask)
  marks : List (Nat × Reg)
  after : Nat
  deriving DecidableEq, Repr

/-- A lane memory instruction in progress (R142, R266): arrival bits, the lanes that faulted with the cause and address of the lowest
of them, and the values delivered with the last arrival. `reduce` marks a `vred`, which an operation of the reduce counter covers, and `row`
a row form (R278). -/
structure LaneOp where
  n : Nat
  run : Nat
  idx : Nat
  dst : Option Opnd
  ty : Ty
  act : Mask
  arrived : Mask
  faulted : Mask
  cause : BitVec 8
  eaddr : Word64
  vals : List (Nat × Word64)
  reduce : Bool
  row : Bool
  deriving DecidableEq, Repr

/-- A chain in progress (R29–R32): its run, the index of its head and of its last member, the flags accrued so far, and the generators as
they stood at its head. -/
structure Chain where
  run : Nat
  head : Nat
  last : Nat
  flags : BitVec 5
  gen : Vector Word32 96
  deriving DecidableEq, Repr

/-- The lane stream (R22, R29, R459, R460). -/
structure LaneStream where
  runs : List Run
  ops : List LaneOp
  chain : Option Chain
  held : List Run
  /-- The run, the head and the faulting member of a chain that is executed again from its head (R461). -/
  resume : Option (Nat × Nat × Nat)
  /-- The run and the instruction that the last lane trap delivered, with the lanes it delivered (R459). -/
  delivered : Option (Nat × Nat × Mask)
  /-- The generators with which the instruction or chain that `sret` executes again begins (R67). -/
  headGen : Option (Vector Word32 96)
  draining : Bool
  deriving DecidableEq, Repr

/-- The trap registers (R455, R456). -/
structure TrapRegs where
  sup : Bool
  lane : Bool
  /-- STATUS.held: lane runs held at the last trap. -/
  held : Nat
  tvec : Word64
  ecause : BitVec 8
  eaddr : Word64
  espc : Word64
  elpc : Word64
  eem : Vector Word64 3
  emask : Mask
  edone : Mask
  scratch : Vector Word64 4
  deriving DecidableEq, Repr

/-- The per-strand system registers of chapters 02, 05 and 06. -/
structure SysRegs where
  lcb : Word64
  asid : BitVec 16
  prio : BitVec 2
  hien : Bool
  hi : Word32
  lo : BitVec 16
  blkt : Word32
  flags : BitVec 5
  seed : Word32
  deriving DecidableEq, Repr

/-- The fault status registers of the engines and MSTAT, NSTAT (R354, R355, R370, R381, R401, R424, R426). -/
structure EngineRegs where
  cpyfs : Word64
  cpyck : Word64
  mstat : BitVec 5
  mfs : Word64
  xfs : Word64
  nstat : BitVec 5
  nfs : Word64
  deriving DecidableEq, Repr

/-- One operation of an outstanding counter (R315, R337), oldest first in the strand's list. -/
structure EngineOp where
  n : Nat
  cls : Fin 8
  done : Bool
  flags : BitVec 5
  deriving DecidableEq, Repr

/-- An engine fault that awaits delivery (R357, R400, R425): ECAUSE, EADDR, the status register's image and, for `lcopy`, the lanes. -/
structure EngineFault where
  op : Nat
  cause : BitVec 8
  eaddr : Word64
  status : Word64
  chunk : Word64
  lanes : Mask
  deriving DecidableEq, Repr

/-- What the scalar stream of a strand waits for (R166). -/
inductive Wait where
  | none
  | load
  | push (q : QueueId)
  | pop (q : QueueId)
  | lock (n : Nat)
  /-- A device-scope `runlock` or `wunlock` whose reply has not come: a stall, no wait on a party (R165, R198, R217). -/
  | unlock (n : Nat)
  /-- A queue operation whose turn at the queue unit has not come: a stall (R165, R208). -/
  | queue (q : QueueId)
  | counter (cls : Fin 8) (n : Nat)
  | halted
  deriving DecidableEq, Repr

/-- Scheduling state of a strand (R164–R174, R183, R198). -/
structure Sched where
  slot : Option (Fin 4)
  /-- The strand took its slot in the present cycle and issues from the next one on (R168). -/
  entered : Bool
  slottedAt : Nat
  readyAt : Nat
  parked : Bool
  wait : Wait
  /-- The next lane instruction had its sources ready in an earlier cycle (R172). -/
  laneEligible : Bool
  blocked : Nat
  /-- The wake-up of a parked `push` or `pop` has come (R208, R537). -/
  woken : Bool
  /-- The handle that a parked `push` offers (R206, R214). -/
  offer : Word32
  /-- The Deadlock trap that a taper has raised in the strand's `push`, with its EADDR, until it is taken (R214, R460). -/
  deadlock : Option Word64
  wick : Nat
  promoted : Bool
  starving : Bool
  starved : Bool
  paused : BitVec 16
  halted : Bool
  retired : Bool
  /-- No instruction issues before the gang's release: class 0 before go (R506), a gang that ends, a drain (R478). -/
  hold : Bool
  issuedNow : Bool
  deriving DecidableEq, Repr

/-- A strand: registers (R11), streams, traps, engines, scheduling. `live` is clear in the place-holder that no strand occupies. -/
structure Strand where
  who : Ident
  live : Bool
  s : Vector Word64 64
  pc : Word64
  pend : List (Reg × Source)
  /-- Marks set aside at trap entry (R460). -/
  asidePend : List (Reg × Source)
  lf : LaneFile
  lq : LaneStream
  tr : TrapRegs
  sy : SysRegs
  en : EngineRegs
  ops : List EngineOp
  faults : List EngineFault
  /-- The engine fault whose trap was taken last, until `sret` releases its operation (R465). -/
  serving : Option EngineFault
  /-- Faulted scalar accesses in issue order (R458). -/
  replay : List Access
  /-- Scalar accesses that the ordering rules hold behind a faulted one, set aside with it. -/
  behind : List Access
  /-- Faulted scalar accesses of a handler, whose trap is fatal (R452). -/
  failed : List Access
  /-- Stores of other strands whose bytes an L1 hit has given this strand before their home performed them (R241, R307). -/
  seen : List Nat
  /-- Numbers of the listed accesses that `sret` performs again, in order, before any other instruction (R458). -/
  redo : List Nat
  /-- Lane accesses of runs enqueued below this number are performed before those of later runs (R311). -/
  laneBarrier : Nat
  /-- Near-memory commands below this number complete before later ones begin (R430). -/
  nearFence : Nat
  sch : Sched
  deriving DecidableEq, Repr

/-! ## Cores -/

/-- An L1 line (R239). -/
structure L1Line where
  granule : Nat
  asid : BitVec 16
  data : List Byte
  r : Bool
  sup : Bool
  deriving DecidableEq, Repr

/-- A scalar fetch copy (R20, R256). -/
structure FetchLine where
  granule : Nat
  asid : BitVec 16
  data : List Byte
  x : Bool
  sup : Bool
  deriving DecidableEq, Repr

/-- An issue port (R164, R171, R172): round-robin positions and the cycles for which its lane pipeline is still occupied. -/
structure Port where
  lastScalar : Fin 4
  lastLane : Fin 4
  laneFree : Nat
  deriving DecidableEq, Repr

/-- How far an accepted engine command has come: queued, stopped at a boundary or running, or stopped by a recorded fault. -/
inductive Progress where
  | queued
  | running
  | faulted
  deriving DecidableEq, Repr

/-- A copy command (R344–R352): `kind` 0 `cpy`, 1 `cpyg`, 2 `lcopy`; `lanes` holds lane, source, destination and count of an `lcopy`, `run` and
`idx` its place in the lane stream (R336). `old`: what bytes of a buffer that a gather reads and writes held before it wrote them, by
peer, space and offset (R349). `begun`: a chunk is in progress, which ends at its boundary (R358, R360). `bad`: the lanes of an `lcopy` whose reads have
faulted, with cause and address, until its other lanes complete (R358). -/
structure CopyCmd where
  n : Nat
  strand : StrandId
  gang : GangId
  peer : Nat
  kind : BitVec 2
  tag : BitVec 2
  lay : BitVec 3
  space : BitVec 3
  regs : List Word64
  lanes : List (Nat × Word64 × Word64 × Nat)
  pol : Word32
  asid : BitVec 16
  sup : Bool
  chunk : Nat
  run : Nat
  idx : Nat
  old : List ((Nat × Nat × Nat) × Byte)
  begun : Bool
  bad : List (Nat × BitVec 8 × Word64)
  state : Progress
  deriving DecidableEq, Repr

/-- A plane of the matrix engine (R362). -/
structure Plane where
  loaded : Bool
  mode : Word64
  off : Nat
  bytes : List Byte
  deriving DecidableEq, Repr

/-- The operations of the matrix engine (R371). -/
inductive DmeOp where
  | mlds | mswap | mloop | cstore | cclr
  deriving DecidableEq, Repr

/-- A matrix command (R371–R381). `begun`: a chunk of a `cstore` is in progress, which ends at its boundary (R383). -/
structure DmeCmd where
  n : Nat
  strand : StrandId
  gang : GangId
  peer : Nat
  op : DmeOp
  lay : BitVec 3
  regs : List Word64
  pol : Word32
  asid : BitVec 16
  sup : Bool
  step : Nat
  begun : Bool
  state : Progress
  deriving DecidableEq, Repr

/-- A matrix command that waits for its crew to own the engine, with its strand (R363). -/
structure MatrixWait where
  crew : GangId × Nat
  strand : StrandId
  deriving DecidableEq, Repr

/-- The matrix engine (R362, R363): planes, owner, queue, the commands that wait for ownership, longest first, and the strand whose waiting
command made its crew the owner, until the command is accepted. -/
structure Dme where
  active : Plane
  shadow : Plane
  owner : Option (GangId × Nat)
  queue : List DmeCmd
  waiting : List MatrixWait
  granted : Option StrandId
  deriving DecidableEq, Repr

/-- An analog array (R385, R386, R392). -/
structure Array4 where
  code : Table (Nat × Nat) Int
  wmax : Table Nat Nat
  f : Table Nat Nat
  nfail : Nat
  gc : Table Nat (BitVec 16)
  oc : Table Nat (BitVec 16)
  gcode : Nat
  valid : Bool
  dcount : Nat
  ops : Nat
  t0 : Word32
  t1 : Word32
  d0 : Word32
  d1 : Word32
  deriving DecidableEq, Repr

/-- The operations of an array (R394). -/
inductive AnaOp where
  | xprog | xmvm | xtrim | xcal
  deriving DecidableEq, Repr

/-- An analog command (R395–R399); `row` is the next row of an `xprog`. -/
structure AnaCmd where
  n : Nat
  strand : StrandId
  gang : GangId
  peer : Nat
  op : AnaOp
  arr : Fin 4
  d : Reg
  regs : List Word64
  sup : Bool
  row : Nat
  state : Progress
  deriving DecidableEq, Repr

/-- The operations of near memory (R419, R431, R434). -/
inductive NearOp where
  | nlaunch | nred | nrowZero | nrowCopy
  deriving DecidableEq, Repr

/-- How far a near-memory command has come (R421): not begun, in phase 1, agreed, in phase 2, or stopped by a fault. -/
inductive NearStage where
  | queued | checking | agreed | running | faulted
  deriving DecidableEq, Repr

/-- A frame piece (R411): its chiplet, the VA of its page, its local frame and its index in the share. -/
structure Piece where
  chip : Nat
  page : Nat
  frame : Nat
  index : Nat
  deriving DecidableEq, Repr

/-- One bank ALU of a wave (R412): its piece, registers, masks and open row; `pos` counts the instructions that it has executed. -/
structure Bank where
  bank : Nat
  frame : Nat
  page : Nat
  piece : Nat
  c : Vector (Vector Word32 16) 16
  m : Vector (BitVec 16) 4
  cur : BitVec 16
  stack : List (BitVec 16)
  row : Option Nat
  pos : Nat
  deriving DecidableEq, Repr

/-- The wave a candle is running (R411–R413). -/
structure Wave where
  chip : Nat
  channel : Nat
  asid : BitVec 16
  k : List Word64
  pass : Nat
  banks : List Bank
  flags : BitVec 5
  deriving DecidableEq, Repr

/-- One indivisible access of an `nrow` (R423, R435): the chiplet, the destination byte, the source byte or the hidden zero row, the bytes moved. -/
structure RowMove where
  chip : Nat
  dst : Nat
  src : Option Nat
  bytes : Nat
  deriving DecidableEq, Repr

/-- A near-memory command (R419, R431, R434). Of phase 1 it keeps the range, the program and each chiplet's translations by page; of phase 2 the
pieces no wave has bound yet and the waves in progress, the row moves to do, the destination granules to reduce with their chiplets, the
chiplets that have added to the completion word, and the flags raised. -/
structure NearCmd where
  n : Nat
  strand : StrandId
  gang : GangId
  op : NearOp
  regs : List Word64
  pol : Word32
  asid : BitVec 16
  sup : Bool
  after : Nat
  stage : NearStage
  base : Word64
  pages : Nat
  program : List (BitVec 96)
  leaves : List (Nat × Nat × Word64)
  pieces : List Piece
  waves : List Wave
  moves : List RowMove
  granules : List (Nat × Nat)
  counted : List Nat
  flags : BitVec 5
  deriving DecidableEq, Repr

/-- A core. -/
structure Core where
  l1 : List L1Line
  fetch : List FetchLine
  ports : Vector Port 4
  copies : List CopyCmd
  dme : Dme
  arrays : Vector Array4 4
  analog : List AnaCmd
  near : List NearCmd
  /-- Stalled requests for waiting-table entries, longest first: the core's cycle of the first attempt, the strand, and whether its lane
  stream asks (R267). -/
  stalled : List (Nat × StrandId × Bool)
  /-- The core's cycles of issue. -/
  cycles : Nat
  gated : List (Buf × Nat)
  waking : List (Buf × Nat)
  deriving DecidableEq, Repr

/-- A strand parked on a crew-scope lock: the word's G offset, the strand, its destination register (R218). -/
structure CrewWaiter where
  off : Nat
  strand : StrandId
  writer : Bool
  d : Reg
  deriving DecidableEq, Repr

/-- A crew (R150, R201–R203, R208, R233): declared sizes in KiB, region contents, QBASE, defined queues, the queue unit's requests, parked strands of queues
and of crew locks in order of waiting, taper counts, parked lock kinds. -/
structure Crew where
  gang : GangId
  peer : Nat
  core : CoreId
  rss : List (Fin 32)
  g : Nat
  w : Nat
  a : Nat
  c : Nat
  mg : Mem
  mw : Mem
  ma : Mem
  mc : Mem
  qbase : BitVec 8
  /-- G offsets of the descriptors that `qdef` has written (R201, R203): only these define a queue. -/
  qdefs : List Nat
  /-- Requests whose turn at the queue unit has not come, in order of arrival (R208). -/
  requests : List (Fin 32 × StrandId)
  /-- The queues that had their operation of the present cycle, each with its descriptor as the previous cycle left it (R208). -/
  served : List (Fin 32 × List Byte)
  pushers : List (Fin 32 × StrandId)
  poppers : List (Fin 32 × StrandId)
  tapers : List (Fin 32 × Nat)
  lockWaiters : List CrewWaiter
  deriving DecidableEq, Repr

/-! ## Gangs and fields -/

/-- What the fatal record of an event says (R452): the control block that names it, kind and ECAUSE, and the dwords behind them. -/
structure FatalEvent where
  block : Word64
  head : Nat
  body : List Word64
  deriving DecidableEq, Repr

/-- A gang (R149–R151): its place, and whether it is ending or saved. -/
structure Gang where
  id : GangId
  die : Fin 8
  x0 : Nat
  y0 : Nat
  lw : Nat
  lh : Nat
  nstr : Nat
  cls : BitVec 2
  ending : Bool
  draining : Bool
  /-- The gang's record is written; its strands are freed with those of the other gangs of the request (R188, R478). -/
  recorded : Bool
  /-- The fatal event whose record waits for the host's translation of its page (R452, R529). -/
  fatal : Option FatalEvent
  deriving DecidableEq, Repr

/-- A saved gang (R478–R480): the implementation's own part of its record, and the gang's data. `access` holds the lane accesses that faulted
in the drain and those held behind them (R459). -/
structure Saved where
  gang : Gang
  access : List Access
  crews : List Crew
  strands : List Strand
  copies : List (Nat × CopyCmd)
  dmes : List (Nat × Dme)
  analog : List (Nat × AnaCmd)
  near : List (Nat × NearCmd)
  deriving DecidableEq, Repr

/-- A field in the window, resident or saved (R153, R504–R506). -/
structure Field where
  block : Word64
  asid : BitVec 16
  cls : BitVec 2
  cosched : Bool
  lane0 : Bool
  prio : BitVec 2
  entry : Word64
  lcb : Word64
  args : Word64
  fx : Nat
  fy : Nat
  lw : Nat
  lh : Nat
  nstr : Nat
  roles : Word32
  aff : BitVec 8
  g : Nat
  w : Nat
  a : Nat
  c : Nat
  tvec : Word64
  window : Bool
  claimed : Bool
  /-- The dies whose fetch-add has shown that no ticket is left (R505, R507). -/
  known : List (Fin 8)
  go : Bool
  /-- The reason of a field that was ended, until its completion word says so (R158, R501, R505). -/
  ended : Option Nat
  saved : List Saved
  deriving DecidableEq, Repr

/-! ## The memory side -/

/-- An LLC line (R247); a slice's lines stand most recently accessed first. `slot` is its local byte address and `win` its window index when windowed. -/
structure LlcLine where
  granule : Nat
  asid : BitVec 16
  data : List Byte
  slot : Nat
  leaf : Word64
  dirty : Bool
  cls : BitVec 2
  way : Nat
  deriving DecidableEq, Repr

/-- A cached translation (R250): page number VA[55:16], ASID, leaf, whether it comes from a 32 MiB leaf; for a host leaf the host page and
the completion's bits (R529). -/
structure TlbEntry where
  page : Nat
  asid : BitVec 16
  leaf : Word64
  big : Bool
  ats : Option AtsReply
  deriving DecidableEq, Repr

/-- A lock's record at its home (R218, R221): waiters in order of parking (true for a writer), holders by field with lowest and
highest gang index. -/
structure Lock where
  va : Word64
  asid : BitVec 16
  waiters : List (Nat × Bool)
  holders : List (Word64 × Nat × Nat)
  overflow : Bool
  deriving DecidableEq, Repr

/-- A memory chiplet. -/
structure Chiplet where
  llc : List LlcLine
  gatedWays : List Nat
  wakingWays : List Nat
  tlb : List TlbEntry
  rtroot : Word64
  win : Table Nat Word64
  locks : List Lock
  /-- Accesses that missed the TLB, in order of arrival: the first 512 have a walker (R250). -/
  walks : List Nat
  /-- The near-memory commands whose waves each candle runs in turn, by pseudo-channel; the head has the turn (R429). -/
  candles : Table Nat (List Nat)
  deriving DecidableEq, Repr

/-- A line of the gang atomic unit (R286); lines stand most recently used first. -/
structure GauLine where
  gang : GangId
  granule : Nat
  asid : BitVec 16
  data : List Byte
  dirty : List Bool
  deriving DecidableEq, Repr

/-! ## Interposer, fabric, host die and Sconce -/

/-- A transmitter (R535): the flits that wait for it in order of arrival, the source served last in each class, and the flits sent since a
management flit. -/
structure Transmitter where
  waiting : List TxFlit
  turns : Table Nat Nat
  since : Nat
  deriving DecidableEq, Repr

/-- An ordered pair of endpoints (R488–R491): its routing register, its transmitter, the next sequence number to send and to deliver, flits sent
and not acknowledged, flits whose last try failed its CRC (sequence number, second leg of a relay, colour, failures in a row), and flits that
arrived early. -/
structure Pair where
  prr : Word64
  tx : Transmitter
  sent : Nat
  unacked : List (Nat × TxFlit)
  tries : List (Nat × Bool × Bool × Nat)
  expected : Nat
  early : List (Nat × FlitBody)
  delivered : List FlitBody
  /-- The pair is stopped for a change of path: flits sent on the old path are awaited (R491). -/
  stopped : Bool
  /-- The last flit sent on the pair's colours was a relayed one (R491). -/
  relayed : Bool
  deriving DecidableEq, Repr

/-- The health register of a wavelength lane (R523) and the laser state of R525. -/
structure LaneHealth where
  serr : BitVec 16
  rxpwr : BitVec 12
  bias : BitVec 12
  temp : BitVec 8
  lock : BitVec 2
  las : BitVec 2
  eras : Bool
  /-- The lock has fallen to 0 since the flag was last set or the lock regained. -/
  fell : Bool
  deriving DecidableEq, Repr

/-- A flit as a fabric port has sent it: sequence number, and the width and used lanes of the codeword that carried it (R517, R522). -/
structure SentFlit where
  seq : Nat
  wc : BitVec 2
  mask : Word32
  flit : TxFlit
  deriving DecidableEq, Repr

/-- A width marker that some receiver may have missed (R522): what it says, the width at which it is resent, the first sequence number sent after
it, and the linked devices that have not acknowledged a flit beyond it. -/
structure Marker where
  wc : BitVec 2
  mask : Word32
  oldWc : BitVec 2
  oldMask : Word32
  seq : Nat
  waits : List Nat
  deriving DecidableEq, Repr

/-- A fabric port (R516–R526, R535). `replay` holds the sequenced flits with the devices that have not acknowledged them, `line` what the port has
sent, in order. -/
structure FabricPort where
  tx : Transmitter
  txSeq : Nat
  replay : List (Nat × TxFlit × List Nat)
  line : List SentFlit
  rxNext : Table Nat Nat
  asked : List (Nat × Nat)
  markers : List Marker
  dropped : Nat
  down : Bool
  training : Bool
  req : Bool
  wc : BitVec 2
  cur : BitVec 2
  mask : Word32
  inUse : Word32
  peerWidth : Table Nat (BitVec 2 × Word32)
  rxtune : Word32
  rxmin : BitVec 12
  fload : Nat
  lasclamp : BitVec 12
  /-- The Sconce has written LASCLAMP in this boot. -/
  clamped : Bool
  mcmemb : Vector Word64 4
  lanes : Table Nat LaneHealth
  waking : List Nat
  /-- What lies at the other ends, by star port (0 on a copper port), as the system builder's management software reports it (R510, R519).
  DESIGN CHOICE, unsafe: log 69. -/
  partners : Table Nat FabricLink
  deriving DecidableEq, Repr

/-- The Lamplighter of a fabric die (R527). -/
structure Lamplighter where
  kicked : Bool
  running : Bool
  resets : BitVec 16
  deriving DecidableEq, Repr

/-- An entry of the bias table (R531). -/
structure Bias where
  va : Word64
  asid : BitVec 16
  dev : Bool
  busy : Bool
  pages : Nat
  /-- Where a running flip leads. -/
  toDev : Bool
  toPages : Nat
  deriving DecidableEq, Repr

/-- A request of another device that its home has not performed (R511, R529, R532): the port it came by, who sent it and under what number, and
what it asks. -/
structure Incoming where
  port : PortId
  src : Nat
  tag : Nat
  o : Nat
  bytes : Nat
  op : FabricOp
  deriving DecidableEq, Repr

/-- The host die (R499–R504, R510–R512, R528–R534) and host memory as the device reaches it. DESIGN CHOICE, safe: log 33. -/
structure HostDie where
  hcrBase : Word64
  hcrSize : BitVec 5
  hcrTail : Word64
  hcrHead : Word64
  llBase : Word64
  llAsid : BitVec 16
  llDrop : Word64
  peerrt : Table Nat Word64
  expBase : Word64
  expLen : Word64
  expAsid : BitVec 16
  peererr : Word64
  ftimeout : Word64
  prito : Word64
  pwrlim : Word64
  steps : Nat
  pasid : Table Nat Word32
  bias : Table Nat Bias
  /-- The page requests outstanding, each with the ASID and page of its group (R530). -/
  pageRequests : List (BitVec 16 × Nat)
  /-- Requests of other devices that wait to be performed, oldest first (R511). -/
  incoming : List Incoming
  raised : List Nat
  /-- The gangs that the ring entry in execution saves (R477, R482, R501). -/
  draining : List GangId
  /-- The field that the ring entry in execution ends (R501). -/
  ending : Option (Word64 × BitVec 16)
  /-- What the host's last read of the configuration aperture, or fetch-add on the launch list, returned (R499, R502). -/
  readData : Word64
  mem : Mem
  deriving DecidableEq, Repr

/-- What the Sconce last answered to an SPDM request (R494). DESIGN CHOICE, unsafe: log 78. -/
inductive Spdm where
  | version
  | capabilities
  | algorithms
  | digests (d : Nat)
  | certificate (d : Nat)
  | challengeAuth (sig : Nat)
  | measurement (i : Nat) (value : Nat)
  | unsupported
  deriving DecidableEq, Repr

/-- The Sconce (R492–R495, R500): boot stage, dies released, held and left out, host-supplied images, measurements, key epochs, and the mailbox's
command, status and buffer. -/
structure Sconce where
  stage : Nat
  released : List Nat
  held : List Nat
  leftOut : List Nat
  images : Table Nat (List Byte)
  measured : Table Nat Nat
  keys : Table Nat Nat
  nextKey : Nat
  command : Word32
  status : Nat
  buffer : Mem
  boots : Word64
  reply : Option Spdm
  deriving DecidableEq, Repr

/-- The device description block (R498). -/
structure Ddb where
  ready : Bool
  dies : List Nat
  chips : List Nat
  fabrics : List Nat
  half : Nat
  relay : Nat
  boots : Word64
  devValid : Bool
  devId : BitVec 11
  deriving DecidableEq, Repr

/-! ## The device -/

/-- A turn of the agenda: an event, the next scalar or lane instruction of a strand, or one cycle of issue of a port (R171, R172). -/
inductive Action where
  | event (i : Instr)
  | scalar (t : StrandId)
  | lane (t : StrandId)
  | issue (c : CoreId) (p : Fin 4)
  deriving DecidableEq, Repr

/-- The device. `me` is the strand whose instruction is executed and `rest` holds the others; `agenda` is the order in which agents
move; `fresh` counts the free values drawn. These, `clock` and `nextId` are the model's own. -/
structure State where
  me : Strand
  rest : List Strand
  crews : List Crew
  gangs : List Gang
  fields : List Field
  cores : Table CoreId Core
  gau : Table (Fin 8) (List GauLine)
  chips : Table Nat Chiplet
  dram : Mem
  epochs : Table Nat Nat
  access : List Access
  wave : Option Wave
  evsel : Table (Nat × Nat) Word64
  evcnt : Table (Nat × Nat) Word64
  pairs : Table (Nat × Nat) Pair
  ports : Table PortId FabricPort
  lamps : Table (Fin 4) Lamplighter
  host : HostDie
  sconce : Sconce
  ddb : Ddb
  agenda : List Action
  clock : Nat
  nextId : Nat
  fresh : Nat
  deriving DecidableEq, Repr

/-! ## Reset -/

/-- Every lane of a vector. -/
def lanes {α : Type} (f : Lane → α) : Vector α 96 := Vector.ofFn f

/-- The generator states a seed gives (R65). -/
def seedGen (seed : Word32) : Vector Word32 96 :=
  lanes (fun l => let g := seed + BitVec.ofNat 32 l.val * 0x9E3779B9#32; if g = 0 then 0x6A09E667#32 else g)

/-- The lane registers at entry (R11). x0 to x3 are undefined there and start at 0. DESIGN CHOICE, unsafe: log 6. -/
def LaneFile.reset : LaneFile :=
  { v := Vector.replicate 128 (Vector.replicate 96 0), tag := 0, a := Vector.replicate 32 (Vector.replicate 96 0)
    m := Vector.replicate 8 0, x := Vector.replicate 4 (Vector.replicate 96 0), gen := seedGen 1 }

/-- The full execution mask in one em register (R147). -/
def emFull : Word64 := 0x00000000FFFFFFFF#64

/-- The scalar registers at entry (R17, R147): s1 is the argument block, em0–em2 the launch mask. -/
def entryScalars (args : Word64) (lane0 : Bool) : Vector Word64 64 :=
  Vector.ofFn (fun i : Fin 64 => if i.val = 1 then args else if i.val = 56 then (if lane0 then 1 else emFull)
    else if (i.val = 57 || i.val = 58) && !lane0 then emFull else 0)

/-- A strand at entry (R17, R163, the reset columns of the registers). -/
def Strand.entry (who : Ident) (pc lcb args tvec : Word64) (asid : BitVec 16) (prio : BitVec 2) (lane0 : Bool) : Strand :=
  { who, live := true, s := entryScalars args lane0, pc, pend := [], asidePend := [], lf := LaneFile.reset
    lq := { runs := [], ops := [], chain := none, held := [], resume := none, delivered := none, headGen := none, draining := false }
    tr := { sup := false, lane := false, held := 0, tvec := tvec &&& 0xFFFFFFFFFFFFFFC0#64, ecause := 0, eaddr := 0, espc := 0, elpc := 0
            eem := Vector.replicate 3 0, emask := 0, edone := 0, scratch := Vector.replicate 4 0 }
    sy := { lcb := lcb &&& 0xFFFFFFFFFFFFFFC0#64, asid, prio, hien := false, hi := 0x00100000, lo := 0x1000, blkt := 0x04000000, flags := 0, seed := 1 }
    en := { cpyfs := 0, cpyck := 0, mstat := 0, mfs := 0, xfs := 0, nstat := 0, nfs := 0 }
    ops := [], faults := [], serving := none, replay := [], behind := [], failed := [], seen := [], redo := [], laneBarrier := 0, nearFence := 0
    sch := { slot := none, entered := false, slottedAt := 0, readyAt := 0, parked := false, wait := .none, laneEligible := false, blocked := 0
             woken := false, offer := 0, deadlock := none, wick := 0
             promoted := false, starving := false, starved := false, paused := 0, halted := false, retired := false, hold := false
             issuedNow := false } }

/-- The identity of the place-holder. -/
def Ident.nobody : Ident :=
  { id := ⟨⟨0, 0, 0⟩, 0⟩, gang := ⟨0, 0, 0⟩, gx := 0, gy := 0, lw := 0, lh := 0, peer := 0, cs := 0, crewn := 0, role := 0 }

/-- The place-holder: a strand's registers at their entry values, and no strand in it. -/
def Strand.nobody : Strand := { Strand.entry .nobody 0 0 0 0 0 0 false with live := false }

def Plane.empty : Plane := { loaded := false, mode := 0, off := 0, bytes := [] }

/-- An array as it leaves manufacture (R386), with the reset values of R392. -/
def Array4.reset : Array4 :=
  { code := [], wmax := [], f := [], nfail := 0, gc := [], oc := [], gcode := 0, valid := false, dcount := 0, ops := 0
    t0 := 0, t1 := 0, d0 := 0, d1 := 0 }

/-- The round-robin positions before a port's first issue are not in the spec: they start so that slot 0 comes first. DESIGN CHOICE, unsafe: log 82. -/
def Core.reset : Core :=
  { l1 := [], fetch := [], ports := Vector.replicate 4 { lastScalar := 3, lastLane := 3, laneFree := 0 }, copies := []
    dme := { active := .empty, shadow := .empty, owner := none, queue := [], waiting := [], granted := none }
    arrays := Vector.replicate 4 .reset, analog := [], near := [], stalled := [], cycles := 0, gated := [], waking := [] }

def Chiplet.reset : Chiplet :=
  { llc := [], gatedWays := [], wakingWays := [], tlb := [], rtroot := 0, win := [], locks := [], walks := [], candles := [] }

def Transmitter.reset : Transmitter := { waiting := [], turns := [], since := 0 }

def Pair.reset : Pair :=
  { prr := 0, tx := .reset, sent := 0, unacked := [], tries := [], expected := 0, early := [], delivered := [], stopped := false, relayed := false }

def LaneHealth.reset : LaneHealth := { serr := 0, rxpwr := 0, bias := 0, temp := 0, lock := 0, las := 0, eras := false, fell := false }

/-- OPWIDTH resets to mask all ones (R522); registers without a reset value start at 0. DESIGN CHOICE, unsafe: log 5. -/
def FabricPort.reset : FabricPort :=
  { tx := .reset, txSeq := 0, replay := [], line := [], rxNext := [], asked := [], markers := [], dropped := 0, down := false, training := false
    req := false, wc := 0, cur := 0, mask := 0xFFFFFFFF, inUse := 0xFFFFFFFF, peerWidth := [], rxtune := 0, rxmin := 0, fload := 0
    lasclamp := 0, clamped := false, mcmemb := Vector.replicate 4 0, lanes := [], waking := [], partners := [] }

def Lamplighter.reset : Lamplighter := { kicked := false, running := false, resets := 0 }

/-- FTIMEOUT, PRITO, PWRLIM, LLBASE and PEERRTd have reset values; the other registers have none and start at 0. DESIGN CHOICE, unsafe: log 5. -/
def HostDie.reset : HostDie :=
  { hcrBase := 0, hcrSize := 0, hcrTail := 0, hcrHead := 0, llBase := 0, llAsid := 0, llDrop := 0, peerrt := [], expBase := 0
    expLen := 0, expAsid := 0, peererr := 0, ftimeout := 1000, prito := 100, pwrlim := 0x000A1130, steps := 0, pasid := [], bias := []
    pageRequests := [], incoming := [], raised := [], draining := [], ending := none, readData := 0, mem := [] }

/-- The epoch of the device key, under which page-table nodes stand (R495); 0 is the epoch of a slot that is off. -/
def deviceEpoch : Nat := 1

/-- Every key slot is off (R495) and no mailbox command runs (status 1). DESIGN CHOICE, unsafe: log 5. -/
def Sconce.reset : Sconce :=
  { stage := 0, released := [], held := [], leftOut := [], images := [], measured := [], keys := [], nextKey := deviceEpoch + 1, command := 0
    status := 1, buffer := [], boots := 0, reply := none }

/-- The block is not published (R498). DESIGN CHOICE, unsafe: log 5. -/
def Ddb.reset : Ddb :=
  { ready := false, dies := [], chips := [], fabrics := [], half := 0, relay := 0, boots := 0, devValid := false, devId := 0 }

/-- The device right after reset: no die has left reset but the Sconce (R492), no strand is resident, memory lists nothing.
The place-holder, `agenda`, `clock`, `nextId` and `fresh` are the model's own. DESIGN CHOICE, unsafe: log 7. -/
def State.reset : State :=
  { me := .nobody, rest := [], crews := [], gangs := [], fields := [], cores := [], gau := [], chips := [], dram := [], epochs := []
    access := [], wave := none, evsel := [], evcnt := [], pairs := [], ports := [], lamps := [], host := .reset, sconce := .reset
    ddb := .reset, agenda := [], clock := 0, nextId := 1, fresh := 0 }

end Sys2Proof.Machine
end

