-- ==== Sys2Proof/Machine/Data.lean ====
section
/-! DEFINITION. Operations on the plain data of the state: canonical byte memories, tables, bytes of words (R5: little-endian). -/

namespace Sys2Proof.Machine

/-! ## Byte memories -/

/-- The byte at an address; an unlisted address reads as 0. DESIGN CHOICE, unsafe: log 4. -/
def Mem.read (m : Mem) (a : Nat) : Byte :=
  match m with
  | [] => 0
  | (x, b) :: rest => if x = a then b else Mem.read rest a

/-- Places an entry before the first one at a higher address. -/
def Mem.place (m : Mem) (a : Nat) (b : Byte) : Mem :=
  match m with
  | [] => [(a, b)]
  | c :: rest => if a < c.1 then (a, b) :: c :: rest else c :: Mem.place rest a b

/-- Stores a byte and keeps the canonical form: the old entry goes, and a byte 0 is not listed. -/
def Mem.write (m : Mem) (a : Nat) (b : Byte) : Mem :=
  if b = 0 then m.filter (fun c => c.1 != a) else Mem.place (m.filter (fun c => c.1 != a)) a b

/-- n bytes from an address, lowest first. -/
def Mem.bytes (m : Mem) (a : Nat) : Nat → List Byte
  | 0 => []
  | n + 1 => m.read a :: m.bytes (a + 1) n

/-- Stores bytes at ascending addresses. -/
def Mem.writeBytes (m : Mem) (a : Nat) : List Byte → Mem
  | [] => m
  | b :: bs => (m.write a b).writeBytes (a + 1) bs

/-- Removes every byte at or above `lo` and below `hi`: zeroes the range. -/
def Mem.clear (m : Mem) (lo hi : Nat) : Mem := m.filter (fun c => c.1 < lo || hi ≤ c.1)

/-! ## Bytes of words -/

/-- The low n bytes of a number, least significant first. -/
def leBytes : Nat → Nat → List Byte
  | 0, _ => []
  | n + 1, v => BitVec.ofNat 8 v :: leBytes n (v / 256)

/-- The number a little-endian byte list stands for. -/
def ofLe : List Byte → Nat
  | [] => 0
  | b :: bs => b.toNat + 256 * ofLe bs

/-- n bytes of a list from an offset; bytes beyond the list read as 0. -/
def slice (bs : List Byte) (off n : Nat) : List Byte := (List.range n).map (fun i => bs.getD (off + i) 0)

/-- A list with `new` laid over it from an offset. -/
def patch (bs : List Byte) (off : Nat) (new : List Byte) : List Byte :=
  bs.mapIdx (fun i b => if off ≤ i && i < off + new.length then new.getD (i - off) b else b)

/-- 256 zero bytes. -/
def zeroGranule : List Byte := List.replicate 256 0

/-! ## Tables -/

/-- The entry of a key, or the given reset entry. -/
def Table.get {κ α : Type} [DecidableEq κ] (t : Table κ α) (k : κ) (d : α) : α :=
  match t with
  | [] => d
  | (x, v) :: rest => if x = k then v else Table.get rest k d

/-- Sets the entry of a key. -/
def Table.put {κ α : Type} [DecidableEq κ] (t : Table κ α) (k : κ) (v : α) : Table κ α :=
  match t with
  | [] => [(k, v)]
  | (x, y) :: rest => if x = k then (k, v) :: rest else (x, y) :: Table.put rest k v

/-! ## Bits -/

/-- Bits hi:lo of a number. -/
def bitsOf (v : Nat) (hi lo : Nat) : Nat := v / 2 ^ lo % 2 ^ (hi + 1 - lo)

/-- Bits hi:lo of a 64-bit word, as a number. -/
def wordBits (w : Word64) (hi lo : Nat) : Nat := bitsOf w.toNat hi lo

/-- Bits 63:57 all equal bit 56 (R92, R102). -/
def canonical (va : Word64) : Bool :=
  let top := va.extractLsb' 56 8
  top == 0 || top == 0xFF

/-- The address lies in the peer aperture (R102, R244). -/
def aperture (va : Word64) : Bool := va.getLsbD 56

/-! ## Transmitters (R535) -/

def flitCode : FlitClass → Nat | .reply => 0 | .writeBack => 1 | .request => 2 | .management => 3

/-- Flits come to a transmitter. -/
def Transmitter.offer (t : Transmitter) (fs : List TxFlit) : Transmitter := { t with waiting := t.waiting ++ fs }

/-- The oldest flit that may go of the source whose turn it is in a class: the next source above the one served last, and round again. -/
def Transmitter.ofClass (t : Transmitter) (may : TxFlit → Bool) (c : FlitClass) : Option TxFlit :=
  let mine := t.waiting.filter (fun f => f.cls == c && may f)
  let last := Table.get t.turns (flitCode c) 0
  let least (fs : List TxFlit) : Option Nat := (fs.map (fun f => f.source)).min?
  ((least (mine.filter (fun f => decide (last < f.source)))).or (least mine)).bind (fun k => mine.find? (fun f => f.source == k))

/-- A management flit is due: 63 others went before it. -/
def Transmitter.due (t : Transmitter) : Bool := decide (63 ≤ t.since)

/-- The flit a transmitter sends next, of those that may go: management when it is due, else the first class that waits. -/
def Transmitter.next (t : Transmitter) (may : TxFlit → Bool) : Option TxFlit :=
  let urgent := if t.due then t.ofClass may .management else none
  urgent.or ((t.ofClass may .reply).or ((t.ofClass may .writeBack).or ((t.ofClass may .request).or (t.ofClass may .management))))

/-- The flit that goes, and the transmitter after it. -/
def Transmitter.send (t : Transmitter) (may : TxFlit → Bool) : Option (TxFlit × Transmitter) :=
  (t.next may).map (fun f =>
    (f, { waiting := t.waiting.erase f, turns := Table.put t.turns (flitCode f.cls) f.source, since := if f.cls == .management then 0 else t.since + 1 }))

end Sys2Proof.Machine
end

