-- ==== Sys2Proof/Machine/Home.lean ====
section
/-! DEFINITION. The memory side (chapter 07): interleave, page walks, the LLC, format windows, discarded pages, encryption (R495), and the
one operation every access to global memory goes through at its home. -/

namespace Sys2Proof.Machine

/-! ## Interleave (R243–R246) -/

/-- h16 of a granule number. -/
def h16 (va : Nat) : Nat :=
  let q := va / 256
  bitsOf q 15 0 ^^^ bitsOf q 31 16 ^^^ bitsOf q 47 32 ^^^ bitsOf q 55 48

/-- N, the live chiplet count. -/
def State.nChips (s : State) : Nat := s.ddb.chips.length

/-- The home chiplet of an address (R243). -/
def State.home (s : State) (va : Nat) : Nat := s.ddb.chips.getD (h16 va % s.nChips) 0

/-- S, the slots of a share, and F, the local frames of a stripe frame. -/
def State.shareSlots (s : State) : Nat := (256 + s.nChips - 1) / s.nChips
def State.span (s : State) : Nat := (s.shareSlots + 15) / 16

/-- The slot rank of an address's granule in its page (R245). -/
def State.rank (s : State) (va : Nat) : Nat :=
  let page := va / 65536 * 65536
  let i := va / 256 % 256
  ((List.range i).filter (fun j => h16 (page + 256 * j) % s.nChips == h16 va % s.nChips)).length

/-- Local frames of a chiplet: 48 GiB of 4 KiB (R498). -/
def framesPerChip : Nat := 12582912

/-! ## Chiplets and DRAM -/

def State.chip (s : State) (c : Nat) : Chiplet := Table.get s.chips c .reset
def State.setChip (s : State) (c : Nat) (x : Chiplet) : State := { s with chips := Table.put s.chips c x }

/-- The place of a chiplet's local byte in the one byte list of DRAM. DESIGN CHOICE, safe: log 15. -/
def dramKey (chip a : Nat) : Nat := chip * 2 ^ 40 + a

/-- The epoch of an ASID's key slot; 0 is off (R495). -/
def State.epoch (s : State) (asid : BitVec 16) : Nat := Table.get s.sconce.keys (asid.toNat % 64) 0

/-- A stored byte as it reads under an epoch: itself when it was written under that epoch, else the decryption of its bits (R495).
DESIGN CHOICE, unsafe: log 10. -/
def State.plainByte (s : State) (epoch key : Nat) : Byte :=
  let written := Table.get s.epochs (key / 64) 0
  if written = epoch then s.dram.read key else Config.cipherByte written epoch key (s.dram.read key)

/-- n local bytes of a chiplet under an epoch. -/
def State.localRead (s : State) (epoch chip a n : Nat) : List Byte :=
  (List.range n).map (fun i => s.plainByte epoch (dramKey chip a + i))

/-- Writes one local byte under an epoch; a column written under another epoch is carried over whole, as a controller's
read-modify-write of its 64-byte data unit does. DESIGN CHOICE, unsafe: log 10. -/
def State.localWriteByte (s : State) (epoch chip a : Nat) (b : Byte) : State :=
  let key := dramKey chip a
  let col := key / 64
  let s := if Table.get s.epochs col 0 = epoch then s
    else { s with dram := s.dram.writeBytes (col * 64) ((List.range 64).map (fun i => s.plainByte epoch (col * 64 + i)))
                  epochs := Table.put s.epochs col epoch }
  { s with dram := s.dram.write key b }

/-- Writes local bytes at ascending addresses. -/
def State.localWrite (s : State) (epoch chip a : Nat) : List Byte → State
  | [] => s
  | b :: bs => (s.localWriteByte epoch chip a b).localWrite epoch chip (a + 1) bs

/-- A page-table entry, under the device key (R252, R495). -/
def State.entryRead (s : State) (chip a : Nat) : Word64 := BitVec.ofNat 64 (ofLe (s.localRead deviceEpoch chip a 8))
def State.entryWrite (s : State) (chip a : Nat) (e : Word64) : State := s.localWrite deviceEpoch chip a (leBytes 8 e.toNat)

/-! ## Page-table entries (R253) -/

namespace Leaf

def v (e : Word64) : Bool := e.getLsbD 0
def r (e : Word64) : Bool := e.getLsbD 1
def w (e : Word64) : Bool := e.getLsbD 2
def x (e : Word64) : Bool := e.getLsbD 3
def sup (e : Word64) : Bool := e.getLsbD 4
def frame (e : Word64) : Nat := wordBits e 35 12
def chip (e : Word64) : Nat := wordBits e 43 40
def wen (e : Word64) : Bool := e.getLsbD 55
def win (e : Word64) : Nat := wordBits e 59 56
def att (e : Word64) : Bool := e.getLsbD 60
def disc (e : Word64) : Bool := e.getLsbD 61
def kind (e : Word64) : Nat := wordBits e 63 62
def isHost (e : Word64) : Bool := kind e == 2
/-- The must-be-zero bits of every entry. -/
def clean (e : Word64) : Bool := wordBits e 54 44 == 0 && wordBits e 39 36 == 0 && wordBits e 11 5 == 0

end Leaf

/-- Whether a leaf at level 1 or 0 is well formed (R246, R253, R255 case 2). A windowed or local leaf whose frames lie beyond the chiplet
counts as malformed: no such frame exists. DEDUCED, unsafe: log 16. -/
def State.leafOk (s : State) (e : Word64) (big : Bool) : Bool :=
  Leaf.clean e && Leaf.chip e == 0 &&
    (match Leaf.kind e with
     | 1 =>
       if Leaf.wen e then !big || Leaf.frame e % 512 == 0
       else Leaf.frame e % (if big then 512 * s.span else s.span) == 0 &&
         decide (Leaf.frame e + (if big then 512 * s.span else s.span) ≤ framesPerChip)
     | 2 => Leaf.frame e == 0 && Leaf.win e == 0 && !Leaf.wen e
     | _ => false)

/-- The spec bounds the frames of leaves (R246), not those of table nodes, of RTROOT and of a window's runs: such a frame beyond the chiplet is read and
stored as any other. DESIGN CHOICE, unsafe: log 108. -/
def State.pointerOk (s : State) (e : Word64) : Bool :=
  Leaf.kind e == 0 && Leaf.clean e && s.ddb.chips.contains (Leaf.chip e)

/-- What a walk finds (R252): a leaf and where its entry stands, an empty level-0 entry, no path, or a malformed entry (at level 0 or above). -/
inductive Walk where
  | leaf (e : Word64) (big : Bool) (chip a : Nat)
  | empty (chip a : Nat)
  | noPath
  | malformed (level0 : Bool) (chip a : Nat)
  deriving DecidableEq, Repr

/-- Index bits of a level. -/
def levelIndex (va : Nat) : Nat → Nat
  | 0 => bitsOf va 24 16
  | 1 => bitsOf va 33 25
  | 2 => bitsOf va 42 34
  | 3 => bitsOf va 51 43
  | _ => bitsOf va 55 52

/-- The walk from the node that a valid pointer names, at a level, down. -/
def State.walkFrom (s : State) (va : Nat) : Nat → Word64 → Walk
  | 0, p =>
    let chip := Leaf.chip p
    let a := 4096 * Leaf.frame p + 8 * levelIndex va 0
    let e := s.entryRead chip a
    if !Leaf.v e then .empty chip a
    else if s.leafOk e false then .leaf e false chip a
    else .malformed true chip a
  | l + 1, p =>
    let chip := Leaf.chip p
    let a := 4096 * Leaf.frame p + 8 * levelIndex va (l + 1)
    let e := s.entryRead chip a
    if !Leaf.v e then .noPath
    else if Leaf.kind e = 0 then (if s.pointerOk e then s.walkFrom va l e else .malformed false chip a)
    else if l = 0 && s.leafOk e true then .leaf e true chip a
    else .malformed false chip a

/-- The walk of an address in an ASID, from a chiplet's RTROOT (R251, R252). The rules name no fault for a root table on a chiplet that is not
live: its entries are read where the register says. DESIGN CHOICE, unsafe: log 87. Nor for a root frame beyond the chiplet: log 108. -/
def State.walkAt (s : State) (at' : Nat) (asid : BitVec 16) (va : Nat) : Walk :=
  let root := (s.chip at').rtroot
  if !root.getLsbD 63 then .noPath
  else
    let chip := wordBits root 27 24
    let a := 4096 * wordBits root 23 0 + 8 * asid.toNat
    let e := s.entryRead chip a
    if !Leaf.v e then .noPath
    else if s.pointerOk e then s.walkFrom va 4 e
    else .malformed false chip a

/-- The walk that an address's home makes. -/
def State.walk (s : State) (asid : BitVec 16) (va : Nat) : Walk := s.walkAt (s.home va) asid va

/-! ## Access kinds and policy -/

/-- What an access needs of its page (R254). -/
structure Need where
  r : Bool
  w : Bool
  x : Bool
  deriving DecidableEq, Repr

def needRead : Need := ⟨true, false, false⟩
def needWrite : Need := ⟨false, true, false⟩
def needBoth : Need := ⟨true, true, false⟩
def needFetch : Need := ⟨false, false, true⟩

namespace Pol

def order (p : Word32) : BitVec 2 := p.extractLsb' 0 2
def scope (p : Word32) : Nat := (p.extractLsb' 2 3).toNat
def tk (p : Word32) : Nat := (p.extractLsb' 8 8).toNat
def ts (p : Word32) : Nat := (p.extractLsb' 16 8).toNat
def l1 (p : Word32) : Nat := (p.extractLsb' 24 2).toNat
def acquire (p : Word32) : Bool := p.getLsbD 0
def release (p : Word32) : Bool := p.getLsbD 1
/-- The faults of the word alone that R272 names. -/
def ok (p : Word32) : Bool := p.extractLsb' 26 6 == 0 && p.extractLsb' 5 3 == 0 && decide (scope p < 5) && l1 p != 2

end Pol

/-- A page access fault: Page Fault 0x08 or Protection 0x09 (R255). -/
abbrev Cause := BitVec 8
def pageFault : Cause := 0x08
def protection : Cause := 0x09

/-- Protection unless the leaf has every needed bit (R254, R255 case 3). -/
def permits (e : Word64) (need : Need) (sup : Bool) : Bool :=
  (!need.r || Leaf.r e) && (!need.w || Leaf.w e) && (!need.x || Leaf.x e) && (sup || !Leaf.sup e)

/-- An ATS completion allows an access; one that does not denies it, and the home asks the host (R529, R530). DEDUCED, unsafe: log 72. -/
def atsPermits (a : AtsReply) (need : Need) : Bool := (!need.r || a.r) && (!need.w || a.w) && (!need.x || a.x)

/-- The eviction class of an access to a page (R248): 0 normal, 1 keep, 2 stream. -/
def evictionClass (va : Nat) (pol : Word32) : BitVec 2 :=
  let h8 := h16 va / 256
  if h8 < Pol.tk pol then 1 else if Pol.ts pol ≠ 0 ∧ Pol.ts pol ≤ h8 then 2 else 0

/-! ## Format windows (R258–R260) -/

namespace Win

def en (w : Word64) : Bool := w.getLsbD 63
def stored (w : Word64) : Option Arith.Block := Arith.Block.ofCode (wordBits w 62 60)
def decoded (w : Word64) : Option Ty := match wordBits w 59 58 with | 0 => some .e4m3 | 1 => some .bf16 | 2 => some .f32 | _ => none
def limit (w : Word64) : Nat := wordBits w 47 24
def base (w : Word64) : Nat := wordBits w 23 0

end Win

/-- Bytes of a decoded element. -/
def tyBytes (t : Ty) : Nat := t.width / 8

/-- The encoded run of a granule (R259): local byte, bytes, block format, decoded type; none when the access fails the window. Runs beyond the chiplet's
frames are runs like others. DESIGN CHOICE, unsafe: log 108. -/
def State.windowRun (s : State) (chip : Nat) (e : Word64) (big : Bool) (va : Nat) : Option (Nat × Nat × Arith.Block × Ty) :=
  let w := Table.get (s.chip chip).win (Leaf.win e) 0
  match Win.stored w, Win.decoded w with
  | some b, some d =>
    let reserved : Bool := b == .e4m3 && d == .e4m3
    let rn := 256 * b.size / (32 * tyBytes d)
    let page := Leaf.frame e + (if big then bitsOf va 24 16 else 0)
    let a := 4096 * Win.base w + (page * s.shareSlots + s.rank va) * rn
    if Win.en w && !reserved && decide (a + rn ≤ 4096 * Win.limit w) then some (a, rn, b, d) else none
  | _, _ => none

/-- The decoded granule of an encoded run (R260). -/
def decodeRun (b : Arith.Block) (d : Ty) (run : List Byte) : List Byte :=
  (List.range (8 / tyBytes d)).flatMap (fun k =>
    let f := Arith.blockFields b ((slice run (k * b.size) b.size).map BitVec.toNat)
    (List.range 32).flatMap (fun i => leBytes (tyBytes d) (Arith.blockDecode d Arith.nearest (Arith.elemVal b f.1 f.2.2 i) f.2.1).1))

/-- The encoded run of a decoded granule: every block afresh, nearest-even, H = 0 (R260). -/
def encodeRun (b : Arith.Block) (d : Ty) (data : List Byte) : List Byte :=
  (List.range (8 / tyBytes d)).flatMap (fun k =>
    let xs := (List.range 32).map (fun i =>
      let code := ofLe (slice data ((k * 32 + i) * tyBytes d) (tyBytes d))
      match Arith.fmtOf d with | some f => f.val code | none => .fin false 0 0)
    let scale := Arith.blockScale b xs
    (Arith.blockBytes b (xs.map (fun x => (Arith.blockElem b Arith.nearest scale x).1)) scale 0).map (BitVec.ofNat 8))

/-- The local byte of an unwindowed local granule (R246). -/
def State.localSlot (s : State) (e : Word64) (big : Bool) (va : Nat) : Nat :=
  4096 * (Leaf.frame e + (if big then bitsOf va 24 16 * s.span else 0)) + 256 * s.rank va

/-! ## The LLC (R247–R249) -/

/-- Stores a dirty line's data: re-encoded when windowed, to host memory for a host leaf in device bias. A line whose window has become a
reserved combination since its fill has no encoding and is lost; `en` counts at fills only. DESIGN CHOICE, unsafe: log 86. -/
def State.writeBackLine (s : State) (chip : Nat) (l : LlcLine) : State :=
  if !l.dirty then s
  else if Leaf.isHost l.leaf then { s with host := { s.host with mem := s.host.mem.writeBytes l.slot l.data } }
  else if Leaf.wen l.leaf then
    let w := Table.get (s.chip chip).win (Leaf.win l.leaf) 0
    match Win.stored w, Win.decoded w with
    | some b, some d => s.localWrite (s.epoch l.asid) chip l.slot (encodeRun b d l.data)
    | _, _ => s
  else s.localWrite (s.epoch l.asid) chip l.slot l.data

/-- Writes back and removes the lines that satisfy p; `wb` false removes without write-back. -/
def State.dropLines (s : State) (chip : Nat) (wb : Bool) (p : LlcLine → Bool) : State :=
  let c := s.chip chip
  let s := if wb then (c.llc.filter p).foldl (fun s l => s.writeBackLine chip l) s else s
  s.setChip chip { s.chip chip with llc := c.llc.filter (fun l => !p l) }

/-- The sets of a slice: 64 MiB of 16 ways with lines of 256 bytes (R2, R247). -/
def llcSets : Nat := 16384

/-- The set of a granule. DESIGN CHOICE, unsafe: log 11. -/
def llcSet (chip granule : Nat) : Nat := Config.llcSet chip granule % llcSets

/-- The last line of a class in a list that stands most recent first. -/
def lruOf (ls : List LlcLine) (cls : BitVec 2) : Option LlcLine := (ls.filter (fun l => l.cls == cls)).getLast?

/-- Makes room in the granule's set and returns the way (R248): an invalid way, else the least recently accessed stream, normal, keep line. -/
def State.allocWay (s : State) (chip granule : Nat) : State × Option Nat :=
  let c := s.chip chip
  let same := c.llc.filter (fun l => llcSet chip l.granule == llcSet chip granule)
  let usable := (List.range 16).filter (fun w => !c.gatedWays.contains w && !c.wakingWays.contains w)
  match usable.find? (fun w => !same.any (fun l => l.way == w)) with
  | some w => (s, some w)
  | none =>
    match (lruOf same 2).or ((lruOf same 0).or (lruOf same 1)) with
    | some l => (s.dropLines chip true (fun k => k.granule == l.granule && k.asid == l.asid), some l.way)
    | none => (s, none)

/-! ## Event counters (R533) -/

/-- Counts k events of a source of a die or chiplet, by endpoint (R533). DESIGN CHOICE, unsafe: log 71. -/
def State.countEvents (s : State) (endpoint src k : Nat) : State :=
  (List.range 8).foldl (fun s n =>
    let sel := Table.get s.evsel (endpoint, n) 0
    if sel.getLsbD 16 && wordBits sel 15 0 == src then
      let c := (Table.get s.evcnt (endpoint, n) 0).toNat + k
      { s with evcnt := Table.put s.evcnt (endpoint, n) (BitVec.ofNat 64 c)
               evsel := if 2 ^ 64 ≤ c then Table.put s.evsel (endpoint, n) (sel ||| 0x8000000000000000#64) else s.evsel }
    else s) s

/-- Counts an event. -/
def State.countEvent (s : State) (endpoint src : Nat) : State := s.countEvents endpoint src 1

/-! ## Translation at the home (R250, R254, R255) -/

def State.tlbFind (s : State) (chip : Nat) (asid : BitVec 16) (va : Nat) : Option TlbEntry :=
  (s.chip chip).tlb.find? (fun t => t.page == va / 65536 && t.asid == asid)

/-- A TLB entry per 64 KiB page; `big` of the walked leaf is folded into the frame of the entry kept. The spec gives no size and no replacement: an entry
stays until an invalidation. DESIGN CHOICE, unsafe: log 107. -/
def State.tlbFill (s : State) (chip : Nat) (asid : BitVec 16) (va : Nat) (e : Word64) (big : Bool) (ats : Option AtsReply) : State :=
  let c := s.chip chip
  let sub := bitsOf va 24 16 * (if Leaf.wen e then 1 else s.span)
  let frame := Leaf.frame e + (if big && Leaf.kind e == 1 then sub else 0)
  let leaf := (e &&& ~~~(0xFFFFFF000#64)) ||| BitVec.ofNat 64 (frame * 4096)
  s.setChip chip { c with tlb := ⟨va / 65536, asid, leaf, big, ats⟩ :: c.tlb.filter (fun t => !(t.page == va / 65536 && t.asid == asid)) }

/-- What a translation at the home gives. -/
inductive Translation where
  | leaf (e : Word64) (ats : Option AtsReply)
  | miss
  | fault (c : Cause)
  deriving DecidableEq, Repr

/-- A lookup of the home's TLB, and with `inline` a walk on a miss (R250). A TLB entry stands for a 64 KiB page. -/
def State.translate (s : State) (inline : Bool) (chip : Nat) (asid : BitVec 16) (va : Nat) : State × Translation :=
  match s.tlbFind chip asid va with
  | some t => (s, .leaf t.leaf t.ats)
  | none =>
    if inline then
      let s := s.countEvent (8 + chip) 4
      match s.walkAt chip asid va with
      | .leaf e big _ _ =>
        let s := s.tlbFill chip asid va e big none
        match s.tlbFind chip asid va with
        | some t => (s, .leaf t.leaf t.ats)
        | none => (s, .fault pageFault)
      | _ => (s, .fault pageFault)
    else (s, .miss)

/-- The leaf of an address's page as the home holds it: with the granule's line, or as a cached translation. -/
def State.cachedLeaf (s : State) (chip : Nat) (asid : BitVec 16) (va : Nat) : Option Word64 :=
  match (s.chip chip).llc.find? (fun l => l.granule == va / 256 && l.asid == asid) with
  | some l => some l.leaf
  | none => (s.tlbFind chip asid va).map (fun t => t.leaf)

/-! ## Host-leaf pages (R529–R531) -/

/-- The pages that an entry names: while a flip runs, those before it and those after it. -/
def Bias.extent (b : Bias) : Nat := if b.busy then max b.pages b.toPages else b.pages

/-- Whether a bias entry gives the page device bias, and whether a flip covers it. -/
def State.biasOf (s : State) (asid : BitVec 16) (va : Nat) : Option Bias :=
  (s.host.bias.map (·.2)).find? (fun b =>
    b.asid == asid && decide (b.va.toNat ≤ va) && decide (va < b.va.toNat + 65536 * b.extent))

/-- The leaf that a line of a host page keeps: with the rights that the host's completion gave as well (R529). -/
def hostLeaf (e : Word64) (a : AtsReply) : Word64 :=
  e &&& ~~~((if a.r then 0 else 2#64) ||| (if a.w then 0 else 4#64) ||| (if a.x then 0 else 8#64))

/-! ## Granules at their banks (R423) -/

/-- The extents of an `nlaunch` or an `nrow`, whose granules stay at their banks during phase 2: addresses with their bytes. -/
def NearCmd.extents (k : NearCmd) : List (Nat × Nat) :=
  let r (i : Nat) : Nat := (k.regs.getD i 0).toNat
  let n := 65536 * wordBits (k.regs.getD 2 0) 15 0
  match k.op with
  | .nlaunch => [(k.base.toNat, 65536 * k.pages)]
  | .nred => []
  | .nrowZero => [(r 0, n)]
  | .nrowCopy => [(r 0, n), (r 1, n)]

/-- Phase 2 of an `nlaunch` or an `nrow` is on and its footprint holds the address: the home allocates no line (R423). -/
def State.atBank (s : State) (asid : BitVec 16) (va : Nat) : Bool :=
  s.cores.any (fun e => e.2.near.any (fun k => k.stage == .running && k.asid == asid &&
    k.extents.any (fun x => decide (x.1 ≤ va) && decide (va < x.1 + x.2))))

/-! ## The access at the home -/

/-- What an access at the home gives: the bytes it read and the granule's data with r and sup, or what it waits for. -/
inductive HomeOut where
  | done (old : List Byte) (line : List Byte) (r sup : Bool)
  | miss
  | revive
  /-- An ATS completion is needed (R529); `bias` true while the access only waits: a bias flip covers the page (R532), or every walker is busy (R250). -/
  | host (bias : Bool)
  | fault (c : Cause)
  deriving DecidableEq, Repr

/-- Installs a granule as the most recent line of its slice; none when every way of the set is gated or waking. DESIGN CHOICE, unsafe: log 11. -/
def State.installLine (s : State) (chip : Nat) (l : LlcLine) : State :=
  match s.allocWay chip l.granule with
  | (s, some w) => s.setChip chip { s.chip chip with llc := { l with way := w } :: (s.chip chip).llc }
  | (s, none) => s.writeBackLine chip l

/-- Applies an update to bytes off … off + n − 1 of a line. -/
def updateLine (l : LlcLine) (off n : Nat) (upd : List Byte → Option (List Byte)) : LlcLine × List Byte :=
  let old := slice l.data off n
  match upd old with
  | some new => ({ l with data := patch l.data off new, dirty := true }, old)
  | none => (l, old)

/-- held, wwait and readers of a lock word are zero (R215, R221). -/
def idleWord (w : Nat) : Bool := bitsOf w 30 0 == 0

/-- The home's holder records end for the lock words of a granule that have returned to the all-zero state (R221). -/
def State.endRecords (s : State) (chip g : Nat) (asid : BitVec 16) (data : List Byte) : State :=
  let c := s.chip chip
  let idle (l : Lock) : Bool := l.va.toNat / 256 == g && l.asid == asid && idleWord (ofLe (slice data (l.va.toNat % 256) 4))
  if c.locks.any idle then s.setChip chip { c with locks := c.locks.map (fun l => if idle l then { l with holders := [], overflow := false } else l) }
  else s

/-- Reads n bytes at va and applies an update, at the granule's home slice, in per-granule order (R247, R255, R261). The bytes lie in one
granule. The update sees the old bytes and answers the new ones, or nothing for a read. The granule's data in the answer is what an L1
or a GAU may keep: nothing for a host leaf (R239, R288), whose lines are of the normal class (R273). -/
def State.homeApply (s : State) (inline : Bool) (va : Nat) (asid : BitVec 16) (need : Need) (sup : Bool) (pol : Word32) (n : Nat)
    (upd : List Byte → Option (List Byte)) : State × HomeOut :=
  let chip := s.home va
  let g := va / 256
  let off := va % 256
  let cls := evictionClass va pol
  let c := s.chip chip
  match c.llc.find? (fun l => l.granule == g && l.asid == asid) with
  | some l =>
    let s := s.countEvent (8 + chip) 2
    let host := Leaf.isHost l.leaf
    let serve (s : State) (leaf : Word64) : State × HomeOut :=
      let (l', old) := updateLine { l with leaf, cls := if host then 0 else cls } off n upd
      ((s.setChip chip { s.chip chip with llc := l' :: (s.chip chip).llc.filter (fun k => !(k.granule == g && k.asid == asid)) }).endRecords chip g asid l'.data,
        .done old (if host then [] else l'.data) (Leaf.r leaf) (Leaf.sup leaf))
    if host && !(Table.get s.host.pasid asid.toNat 0).getLsbD 31 then (s, .fault pageFault)
    else if host && (s.biasOf asid va).any (fun b => b.busy) then (s, .host true)
    else if permits l.leaf need sup then serve s l.leaf
    else if !host then (s, .fault protection)
    else match s.translate inline chip asid va with
      | (s, .fault f) => (s, .fault f)
      | (s, .miss) => (s, .miss)
      | (s, .leaf e ats) =>
        if !permits e need sup then (s, .fault protection)
        else match ats with
          | none => (s, .host false)
          | some a => if atsPermits a need then serve s (hostLeaf e a) else (s, .host false)
  | none =>
    match (s.countEvent (8 + chip) 3).translate inline chip asid va with
    | (s, .fault f) => (s, .fault f)
    | (s, .miss) => (s, .miss)
    | (s, .leaf e ats) =>
      if !permits e need sup then (s, .fault protection)
      else if Leaf.isHost e then
        if !(Table.get s.host.pasid asid.toNat 0).getLsbD 31 then (s, .fault pageFault)
        else match ats with
        | none => (s, .host false)
        | some a =>
          if (s.biasOf asid va).any (fun b => b.busy) then (s, .host true)
          else if !atsPermits a need then (s, .host false)
          else if (s.biasOf asid va).any (fun b => b.dev) then
            let slot := a.page * 65536 + va % 65536 / 256 * 256
            let (l, old) := updateLine ⟨g, asid, s.host.mem.bytes slot 256, slot, hostLeaf e a, false, 0, 0⟩ off n upd
            (s.installLine chip l, .done old [] false (Leaf.sup e))
          else
            let slot := a.page * 65536 + va % 65536
            let old := s.host.mem.bytes slot n
            ((match upd old with
              | some new => { s with host := { s.host with mem := s.host.mem.writeBytes slot new } }
              | none => s), .done old [] false (Leaf.sup e))
      else
        let run := s.windowRun chip e false va
        if Leaf.wen e && run.isNone then (s, .fault protection)
        else if Leaf.disc e then
          if need.w then (if Leaf.att e then (s, .revive) else (s, .fault pageFault))
          else (s, .done (List.replicate n 0) zeroGranule (Leaf.r e) (Leaf.sup e))
        else
          let fill : List Byte × Nat := match run with
            | some (a, rn, b, d) => if Leaf.wen e then (decodeRun b d (s.localRead (s.epoch asid) chip a rn), a)
              else (s.localRead (s.epoch asid) chip (s.localSlot e false va) 256, s.localSlot e false va)
            | none => (s.localRead (s.epoch asid) chip (s.localSlot e false va) 256, s.localSlot e false va)
          let (l, old) := updateLine ⟨g, asid, fill.1, fill.2, e, false, cls, 0⟩ off n upd
          let s := if s.atBank asid va then (if l.dirty then s.localWrite (s.epoch asid) chip (fill.2 + off) (slice l.data off n) else s)
            else s.installLine chip l
          (s.endRecords chip g asid l.data, .done old l.data (Leaf.r e) (Leaf.sup e))

/-! ## Cores, GAUs and shootdown (R239–R242, R256, R286) -/

def State.core (s : State) (c : CoreId) : Core := Table.get s.cores c .reset
def State.setCore (s : State) (c : CoreId) (x : Core) : State := { s with cores := Table.put s.cores c x }
def State.gauOf (s : State) (die : Fin 8) : List GauLine := Table.get s.gau die []
def State.setGau (s : State) (die : Fin 8) (ls : List GauLine) : State := { s with gau := Table.put s.gau die ls }

/-- Applies a change to every core that holds anything. -/
def State.mapCores (s : State) (f : Core → Core) : State := { s with cores := s.cores.map (fun e => (e.1, f e.2)) }

/-- A line's granule lies in a page range. -/
def inRange (granule : Nat) (lo hi : Nat) : Bool := decide (lo ≤ granule * 256) && decide (granule * 256 < hi)

/-- Fills on their way to an L1 that satisfy p are not installed (R241, R242, R256). -/
def State.dropFills (s : State) (p : Access → Bool) : State :=
  { s with access := s.access.map (fun a => if p a then { a with line := none } else a) }

/-- Removes L1 lines of a range of an ASID on every core, and fills on their way there. -/
def State.dropL1 (s : State) (asid : BitVec 16) (lo hi : Nat) : State :=
  (s.mapCores (fun c => { c with l1 := c.l1.filter (fun l => !(l.asid == asid && inRange l.granule lo hi)) })).dropFills
    (fun a => a.asid == asid && inRange (a.va.toNat / 256) lo hi)

/-- A store of bytes at the home, walking where needed; faults leave it undone. The bytes lie in one granule. -/
def State.homeStore (s : State) (va : Nat) (asid : BitVec 16) (sup : Bool) (pol : Word32) (bs : List Byte) : State × HomeOut :=
  s.homeApply true va asid needWrite sup pol bs.length (fun _ => some bs)

/-- The dirty bytes of a GAU line as a single store at the home (R287). Only those bytes are written. The spec names no outcome of a write-back that
faults, its page or window having changed since the fill: the bytes are lost. DESIGN CHOICE, unsafe: log 106. Its walk waits for no walker. -/
def State.gauWriteLine (s : State) (l : GauLine) : State :=
  if l.dirty.any id then
    (s.homeApply true (l.granule * 256) l.asid needWrite true 0 256
      (fun old => some (old.mapIdx (fun i b => if l.dirty.getD i false then l.data.getD i 0 else b)))).1
  else s

/-- Writes back the lines of a die's GAU that satisfy p; `drop` also removes them. -/
def State.gauWriteBack (s : State) (die : Fin 8) (drop : Bool) (p : GauLine → Bool) : State :=
  let ls := s.gauOf die
  let s := (ls.filter p).foldl (fun s l => s.gauWriteLine l) s
  s.setGau die (if drop then ls.filter (fun l => !p l)
    else ls.map (fun l => if p l then { l with dirty := List.replicate 256 false } else l))

/-- A TLB entry lies in a range; a 32 MiB translation that overlaps the range is removed whole (R472). -/
def TlbEntry.meets (t : TlbEntry) (lo hi : Nat) : Bool :=
  let unit := if t.big then 33554432 else 65536
  let base := t.page * 65536 / unit * unit
  decide (lo < base + unit) && decide (base < hi)

/-- The shootdown of a range of an ASID (R256): TLBs, LLC lines written back and invalidated, GAU lines (R287), L1 lines, fetch copies. -/
def State.shootRange (s : State) (asid : BitVec 16) (lo hi : Nat) : State :=
  let s := s.gau.foldl (fun s e => s.gauWriteBack e.1 true (fun l => l.asid == asid && inRange l.granule lo hi)) s
  let s := s.ddb.chips.foldl (fun s c =>
    let s := s.dropLines c true (fun l => l.asid == asid && inRange l.granule lo hi)
    s.setChip c { s.chip c with tlb := (s.chip c).tlb.filter (fun t => !(t.asid == asid && t.meets lo hi)) }) s
  (s.dropL1 asid lo hi).mapCores (fun c => { c with fetch := c.fetch.filter (fun l => !(l.asid == asid && inRange l.granule lo hi)) })

/-! ## Discarded pages (R261, R262) -/

/-- Writes zeros over the F frames of a stripe frame on every live chiplet, under the ASID's key (R496). -/
def State.zeroShares (s : State) (asid : BitVec 16) (frame frames : Nat) : State :=
  s.ddb.chips.foldl (fun s c =>
    { s with dram := s.dram.clear (dramKey c (4096 * frame)) (dramKey c (4096 * (frame + frames)))
             epochs := (List.range (64 * frames)).foldl (fun t i => Table.put t (dramKey c (4096 * frame) / 64 + i) (s.epoch asid)) s.epochs }) s

/-- Zeroes the decoded share of a windowed page: blocks whose codes and scales are zero. -/
def State.zeroRuns (s : State) (asid : BitVec 16) (e : Word64) (big : Bool) (va : Nat) : State :=
  (List.range 256).foldl (fun s i =>
    let a := va / 65536 * 65536 + 256 * i
    let chip := s.home a
    match s.windowRun chip e big a with
    | some (lo, rn, _, _) => s.localWrite (s.epoch asid) chip lo (List.replicate rn 0)
    | none => s) s

/-- Forgets the home's own translation of a page, so that the next access walks again. -/
def State.tlbForget (s : State) (asid : BitVec 16) (va : Nat) : State :=
  let h := s.home va
  s.setChip h { s.chip h with tlb := (s.chip h).tlb.filter (fun t => !(t.page == va / 65536 && t.asid == asid)) }

/-- A write to a page whose cached translation says that it is discarded and attached (R261, R262): the page is revived (zero shares, disc
cleared, shootdown); a frame that has been reclaimed meanwhile is a Page Fault; a page that has been revived meanwhile is walked again. -/
def State.revive (s : State) (asid : BitVec 16) (va : Nat) : State × Option Cause :=
  match s.walk asid va with
  | .leaf e big chip a =>
    if !Leaf.disc e then (s.tlbForget asid va, none)
    else if !Leaf.att e then (s, some pageFault)
    else
      let s := if Leaf.wen e then
          (List.range (if big then 512 else 1)).foldl (fun s u =>
            s.zeroRuns asid e big (if big then va / 33554432 * 33554432 + u * 65536 else va)) s
        else s.zeroShares asid (Leaf.frame e) ((if big then 512 else 1) * s.span)
      let s := s.entryWrite chip a (e &&& ~~~(0x2000000000000000#64))
      let lo := if big then va / 33554432 * 33554432 else va / 65536 * 65536
      (s.shootRange asid lo (lo + (if big then 33554432 else 65536)), none)
  | _ => (s, some pageFault)

/-! ## Whole accesses of engines and of the device -/

/-- The name under which accesses of the device itself stand in lists. -/
def processors : GangId := ⟨0, 0, 2 ^ 32⟩

/-- The accesses that wait for a walker of a chiplet or have one, in order of arrival (R250). -/
def State.walkers (s : State) (chip : Nat) : List Nat :=
  (s.chip chip).walks.filter (fun n => s.access.any (fun b => b.n == n && b.status == .walking))

/-- An access would miss the TLB of its home while each of the 512 walkers is busy (R250). -/
def State.walkersBusy (s : State) (asid : BitVec 16) (va : Nat) : Bool :=
  (s.cachedLeaf (s.home va) asid va).isNone && decide (512 ≤ (s.walkers (s.home va)).length)

/-- The miss of an engine or of the device itself takes its place behind the misses that came before it (R250). -/
def State.queueWalk (s : State) (asid : BitVec 16) (va : Nat) : State :=
  if s.access.any (fun a => a.gang == processors && a.status == .walking && a.asid == asid && a.va.toNat / 65536 == va / 65536) then s
  else
    let h := s.home va
    let c := s.chip h
    { s.setChip h { c with walks := s.walkers h ++ [s.nextId] } with
      access := s.access ++ [{ n := s.nextId, run := 0, after := 0, sent := false, strand := ⟨⟨0, 0, 0⟩, 0⟩, gang := processors, origin := .scalar 0 false
                               entry := false, kind := .operation, space := 0, va := BitVec.ofNat 64 va, size := 1, asid, sup := true, data := 0
                               cmp := 0, pol := 0, line := none, status := .walking }]
      nextId := s.nextId + 1 }

/-- An access at the home that walks and revives as part of itself; while every walker is busy it waits. -/
def State.homeFull (s : State) (va : Nat) (asid : BitVec 16) (need : Need) (sup : Bool) (pol : Word32) (n : Nat)
    (upd : List Byte → Option (List Byte)) : State × HomeOut :=
  if s.walkersBusy asid va then (s.queueWalk asid va, .host true)
  else match s.homeApply true va asid need sup pol n upd with
  | (s, .revive) =>
    match s.revive asid va with
    | (s, some c) => (s, .fault c)
    | (s, none) => s.homeApply true va asid need sup pol n upd
  | r => r

/-- A naturally aligned word of n bytes read at device or system scope, without L1 or GAU. -/
def State.homeWord (s : State) (va : Nat) (asid : BitVec 16) (sup : Bool) (n : Nat) (pol : Word32 := 0) : State × Option Nat :=
  match s.homeFull va asid needRead sup pol n (fun _ => none) with
  | (s, .done old _ _ _) => (s, some (ofLe old))
  | (s, _) => (s, none)

/-- A naturally aligned word written at device or system scope; false when it faults. -/
def State.homeSet (s : State) (va : Nat) (asid : BitVec 16) (sup : Bool) (n v : Nat) : State × Bool :=
  match s.homeFull va asid needWrite sup 0 n (fun _ => some (leBytes n v)) with
  | (s, .done _ _ _ _) => (s, true)
  | (s, _) => (s, false)

/-- An atomic update of a naturally aligned word at the home: the old value, or nothing when it faults (R283). -/
def State.homeRmw (s : State) (va : Nat) (asid : BitVec 16) (sup : Bool) (n : Nat) (f : Nat → Nat) (pol : Word32 := 0) : State × Option Nat :=
  match s.homeFull va asid needBoth sup pol n (fun old => some (leBytes n (f (ofLe old)))) with
  | (s, .done old _ _ _) => (s, some (ofLe old))
  | (s, _) => (s, none)

/-- Several dwords written one after another; stops at the first that faults. -/
def State.homeSetAll (s : State) (asid : BitVec 16) (sup : Bool) : List (Nat × Word64) → State × Bool
  | [] => (s, true)
  | (va, v) :: rest =>
    match s.homeSet va asid sup 8 v.toNat with
    | (s, true) => s.homeSetAll asid sup rest
    | (s, false) => (s, false)

/-- Raises an MSI-X vector (R528). -/
def State.raise (s : State) (v : Nat) : State := { s with host := { s.host with raised := s.host.raised ++ [v] } }

end Sys2Proof.Machine
end

