-- ==== Sys2Proof/Machine/Ops.lean ====
section
/-! DEFINITION. Named operations over strands and registers: finding strands, crews and gangs, reading and writing registers (R12, R13),
stalls (R25, R83), taking a trap (R449–R452, R460) and returning from one (R465). -/

namespace Sys2Proof.Machine

/-- The outcome of an instruction or a step. -/
abbrev Out := Host.Outcome State Fault Refusal

/-! ## Strands -/

def Strand.isId (x : Strand) (t : StrandId) : Bool := x.live && x.who.id == t

/-- Every resident strand. -/
def State.strands (s : State) : List Strand := (if s.me.live then [s.me] else []) ++ s.rest

def State.strand (s : State) (t : StrandId) : Option Strand := s.strands.find? (fun x => x.isId t)

/-- Changes the strand at a place. -/
def State.modify (s : State) (t : StrandId) (f : Strand → Strand) : State :=
  { s with me := if s.me.isId t then f s.me else s.me, rest := s.rest.map (fun x => if x.isId t then f x else x) }

/-- Changes every resident strand that satisfies p. -/
def State.modifyAll (s : State) (p : Strand → Bool) (f : Strand → Strand) : State :=
  { s with me := if s.me.live && p s.me then f s.me else s.me, rest := s.rest.map (fun x => if p x then f x else x) }

/-- Gives a strand the turn. -/
def State.focus (s : State) (t : StrandId) : State :=
  if s.me.isId t then s
  else match s.rest.find? (fun x => x.isId t) with
    | some x => { s with me := x, rest := s.rest.filter (fun y => !y.isId t) ++ (if s.me.live then [s.me] else []) }
    | none => s

/-- Removes the strands that satisfy p. -/
def State.dropStrands (s : State) (p : Strand → Bool) : State :=
  let s := { s with rest := s.rest.filter (fun x => !p x) }
  if s.me.live && p s.me then
    match s.rest with
    | x :: r => { s with me := x, rest := r }
    | [] => { s with me := { s.me with live := false } }
  else s

/-! ## Crews, gangs, fields -/

def State.crewOf (s : State) (g : GangId) (peer : Nat) : Option Crew := s.crews.find? (fun c => c.gang == g && c.peer == peer)
def State.modifyCrew (s : State) (g : GangId) (peer : Nat) (f : Crew → Crew) : State :=
  { s with crews := s.crews.map (fun c => if c.gang == g && c.peer == peer then f c else c) }
def State.gangOf (s : State) (g : GangId) : Option Gang := s.gangs.find? (fun x => x.id == g)
def State.modifyGang (s : State) (g : GangId) (f : Gang → Gang) : State :=
  { s with gangs := s.gangs.map (fun x => if x.id == g then f x else x) }
def State.fieldOf (s : State) (g : GangId) : Option Field := s.fields.find? (fun x => x.block == g.block && x.asid == g.asid)
def State.modifyField (s : State) (block : Word64) (asid : BitVec 16) (f : Field → Field) : State :=
  { s with fields := s.fields.map (fun x => if x.block == block && x.asid == asid then f x else x) }

/-- The crew of the strand with the turn. -/
def State.myCrew (s : State) : Option Crew := s.crewOf s.me.who.gang s.me.who.peer
/-- Cores of a strand's gang (R149). -/
def Ident.cores (w : Ident) : Nat := 2 ^ w.lw * 2 ^ w.lh

/-! ## Scalar registers (R11–R13) -/

/-- The value of a scalar register; s0 reads as zero (R12). -/
def State.reg (s : State) (r : Reg) : Word64 := if r = 0 then 0 else s.me.s[r]

/-- A strand with a scalar register written; a write of s0 is discarded (R12). A write of em0–em2 is a reconvergence point (R311). -/
def Strand.setReg (x : Strand) (next : Nat) (r : Reg) (v : Word64) : Strand :=
  if r = 0 then x
  else { x with s := x.s.set r v, laneBarrier := if r = 56 ∨ r = 57 ∨ r = 58 then next else x.laneBarrier }

def State.setReg (s : State) (r : Reg) (v : Word64) : State := { s with me := s.me.setReg s.nextId r v }

/-- The execution mask that em0–em2 form (R13). -/
def Strand.em (x : Strand) : Mask := (x.s[58]).extractLsb' 0 32 ++ (x.s[57]).extractLsb' 0 32 ++ (x.s[56]).extractLsb' 0 32

/-- Parts of a mask as em registers hold them. -/
def maskPart (m : Mask) (p : Nat) : Word64 := (m.extractLsb' (32 * p) 32).setWidth 64

/-! ## Pending registers and progress (R25, R83) -/

def Strand.isPending (x : Strand) (r : Reg) : Bool := r != 0 && x.pend.any (fun p => p.1 == r)
/-- Some register that the instruction reads or writes is pending. -/
def State.pending (s : State) (rs : List Reg) : Bool := rs.any s.me.isPending
def Strand.mark (x : Strand) (r : Reg) (src : Source) : Strand := if r = 0 then x else { x with pend := x.pend ++ [(r, src)] }
def Strand.unmark (x : Strand) (src : Source) : Strand := { x with pend := x.pend.filter (fun p => p.2 != src) }

/-- The scalar stream stays at the instruction, waiting for w. -/
def State.wait (s : State) (w : Wait) : State := { s with me := { s.me with sch := { s.me.sch with wait := w, woken := false } } }

/-- A stall on pending registers; a register that waits for the reply of an access with a waiting-table entry lets the strand park (R166,
R238, R399). DEDUCED, unsafe: log 2. -/
def State.stall (s : State) (rs : List Reg) : State :=
  let reply := s.me.pend.any (fun p => rs.contains p.1 && (match p.2 with
    | .reply n => s.access.any (fun a => a.n == n && a.entry)
    | .run _ => false))
  s.wait (if reply then .load else .none)

/-- The instruction retires: the pc moves to an address. -/
def State.jump (s : State) (pc : Word64) : State :=
  { s with me := { s.me with pc, sch := { s.me.sch with wait := .none, woken := false, blocked := 0, issuedNow := true } } }

/-- The instruction retires: the pc moves to the next word. -/
def State.advance (s : State) : State := s.jump (s.me.pc + 4)

/-! ## Leaving a wait (R212, R537) -/

/-- Takes a lock waiter off its home's list and a waiting writer back from wwait (R198, R212). -/
def State.dropLockWaiter (s : State) (n : Nat) : State :=
  match s.access.find? (fun a => a.n == n) with
  | none => s
  | some a =>
    let s := { s with access := s.access.filter (fun b => b.n != n) }
    if a.status == .waiter then
      let chip := s.home a.va.toNat
      let c := s.chip chip
      let s := s.setChip chip { c with locks := c.locks.map (fun l => { l with waiters := l.waiters.filter (fun w => w.1 != n) }) }
      if a.kind == .wlock then
        (s.homeRmw a.va.toNat a.asid true 4 (fun w => if bitsOf w 29 16 = 0 then w else w - 65536)).1
      else s
    else s

/-- A crew without a strand among its parked strands; a parked writer of a crew lock is taken back from wwait. -/
def Crew.leave (c : Crew) (t : StrandId) : Crew :=
  let mine := c.lockWaiters.filter (fun w => w.strand == t)
  let mg := mine.foldl (fun m w =>
    let v := ofLe (m.bytes w.off 4)
    if w.writer && bitsOf v 29 16 != 0 then m.writeBytes w.off (leBytes 4 (v - 65536)) else m) c.mg
  { c with pushers := c.pushers.filter (fun p => p.2 != t), poppers := c.poppers.filter (fun p => p.2 != t)
           lockWaiters := c.lockWaiters.filter (fun w => w.strand != t), mg := mg }

/-- A strand is parked no longer: it is ready from the given cycle on (R167, R168). -/
def Strand.unparked (x : Strand) (clock : Nat) : Strand :=
  { x with sch := { x.sch with parked := false, readyAt := if x.sch.parked then clock else x.sch.readyAt } }

/-- A strand that waits in a queue or lock instruction leaves the wait without effect; the instruction executes again later. -/
def State.leaveWait (s : State) (x : Strand) : State :=
  let t := x.who.id
  let s := { s with crews := s.crews.map (fun (c : Crew) => c.leave t) }
  let s := match x.sch.wait with
    | .lock n | .unlock n => s.dropLockWaiter n
    | _ => s
  s.modify t (fun y => ({ y with sch := { y.sch with wait := .none, woken := false, blocked := 0 } } : Strand).unparked s.clock)

/-- A strand's command no longer waits for the matrix engine. -/
def Dme.leave (d : Dme) (t : StrandId) : Dme :=
  { d with waiting := d.waiting.filter (fun w => w.strand != t), granted := if d.granted = some t then none else d.granted }

/-- A strand's stalled requests, for waiting-table entries and for the matrix engine, stand no more. -/
def State.unstall (s : State) (t : StrandId) : State :=
  let c := s.core t.core
  s.setCore t.core { c with stalled := c.stalled.filter (fun e => e.2.1 != t), dme := c.dme.leave t }

/-! ## The words of the identity and status registers (R177–R183, R455) -/

def Strand.gangxy (x : Strand) : Word64 := BitVec.ofNat 64 (x.who.gang.index % 2 ^ 32 * 2 ^ 32 + x.who.gy % 65536 * 65536 + x.who.gx % 65536)

def Strand.corexy (x : Strand) : Word64 :=
  let w := x.who
  BitVec.ofNat 64 (w.lh % 4 * 2 ^ 20 + w.lw % 4 * 2 ^ 18 + w.peer % 32 * 2 ^ 13 + w.peer / 2 ^ w.lw % 4 * 2 ^ 11 +
    w.peer % 2 ^ w.lw % 8 * 2 ^ 8 + w.id.core.die.val * 32 + w.id.core.y.val * 8 + w.id.core.x.val)

def Strand.strandid (x : Strand) : Word64 :=
  let w := x.who
  BitVec.ofNat 64 (min x.sch.wick 65535 * 2 ^ 48 + w.role.toNat * 2 ^ 13 + w.crewn % 16 * 2 ^ 9 + w.cs % 16 * 2 ^ 5 + w.id.rs.val)

def Strand.fieldid (x : Strand) : Word64 := x.who.gang.block &&& 0xFFFFFFFFFFFFFF80#64

/-! ## Pages that the device itself accesses (R529, R530, R532) -/

/-- Asks the host for the translation of a page that no access of a strand names: a request without a waiting-table entry (R529). A
request that the host denied is answered with Page Fault, once (R530). -/
def State.askHostFor (s : State) (t : StrandId) (gang : GangId) (asid : BitVec 16) (va : Nat) (sup : Bool) (need : Need) :
    State × Option Cause :=
  match s.access.find? (fun a => a.kind == .operation && !a.entry && a.strand == t && a.gang == gang && a.va.toNat / 65536 == va / 65536 && a.asid == asid) with
  | some a =>
    (match a.status with
     | .faulted c => ({ s with access := s.access.filter (fun b => b.n != a.n) }, some c)
     | _ => (s, none))
  | none =>
    ({ s with
       access := s.access ++ [{ n := s.nextId, run := 0, after := 0, sent := false, strand := t, gang, origin := .scalar 0 false, entry := false, kind := .operation, space := 0
                                va := BitVec.ofNat 64 va, size := 1, asid, sup, data := 0, pol := 0, line := none, status := .host
                                cmp := (if need.w then 1 else 0) + (if need.x then 2 else 0) }]
       nextId := s.nextId + 1 }, none)

/-- An access of the device itself to a page may go ahead; it waits while every walker is busy, while the host's translation of the page is on its
way and while a bias flip covers the page (R250, R529, R530, R532). One that the host has denied goes ahead and faults. -/
def State.pageReady (s : State) (asid : BitVec 16) (va : Nat) (need : Need) : State × Bool :=
  if s.walkersBusy asid va then (s.queueWalk asid va, false)
  else match (s.homeApply true va asid need true 0 0 (fun _ => none)).2 with
  | .host true => (s, false)
  | .host false => match s.askHostFor ⟨⟨0, 0, 0⟩, 0⟩ processors asid va true need with
    | (s, c) => (s, c.isSome)
  | _ => (s, true)

/-- Every page of a list may be accessed. -/
def State.pagesReady (s : State) (asid : BitVec 16) (need : Need) (vas : List Nat) : State × Bool :=
  vas.foldl (fun (r : State × Bool) va => if r.2 then r.1.pageReady asid va need else r) (s, true)

/-! ## Ending a gang (R476 steps 2 and 3) -/

/-- A near-memory command has begun and not been stopped by a fault (R429, R438). -/
def NearCmd.executing (k : NearCmd) : Bool := match k.stage with | .checking | .agreed | .running => true | .queued | .faulted => false

/-- A chain whose last member has not been issued. -/
def Strand.chainOpen (x : Strand) : Bool :=
  match x.lq.chain with
  | some c => x.lq.runs.any (fun r => r.id == c.run && decide (r.next ≤ c.last))
  | none => false

/-- A strand stops at its boundary: a chain in execution goes on to its end, everything else that it had before it is discarded. -/
def Strand.stopped (x : Strand) : Strand :=
  let mine (r : Run) : Bool := match x.lq.chain with | some c => x.chainOpen && r.id == c.run | none => false
  { x with lq := { x.lq with runs := x.lq.runs.filter mine, chain := if x.chainOpen then x.lq.chain else none
                             held := [], resume := none, delivered := none, headGen := none, draining := false }
           pend := [], asidePend := [], ops := [], faults := [], serving := none, replay := [], behind := [], failed := [], redo := []
           sch := { x.sch with halted := true, retired := true, hold := true, deadlock := none, wait := .halted } }

/-- Stops every strand of a gang at its next boundary, leaves its waits, discards lane runs not begun, engine commands as the drain leaves them
and outstanding counts. An accepted `lcopy` completes first, and a chunk in progress ends (R360, R383). -/
def State.stopGang (s : State) (g : GangId) : State :=
  let s := (s.strands.filter (fun x => x.who.gang == g)).foldl (fun s x => s.leaveWait x) s
  let s := s.modifyAll (fun x => x.who.gang == g) Strand.stopped
  let s := s.mapCores (fun c =>
    { c with copies := c.copies.filter (fun k => k.gang != g || k.begun || (k.kind == 2 && k.state != .faulted))
             analog := c.analog.filter (fun k => k.gang != g)
             near := c.near.filter (fun k => k.gang != g || k.executing)
             dme := { c.dme with queue := c.dme.queue.filter (fun k => k.gang != g || k.begun), waiting := c.dme.waiting.filter (fun w => w.crew.1 != g) } })
  s.modifyGang g (fun x => { x with ending := true, recorded := false })

/-! ## Fatal events (R452) -/

/-- The trap control block of a field: the vector base of its launch block, bits 63:6 (R450, R456). -/
def Field.controlBlock (f : Field) : Word64 := f.tvec &&& 0xFFFFFFFFFFFFFFC0#64

/-- The trap control block that names the fatal record: the one TVEC names, and with no vector there the one of the launch block (R450, R452).
DEDUCED, unsafe: log 88. -/
def State.controlBlock (s : State) (x : Strand) : Word64 :=
  if x.tr.tvec ≠ 0 then x.tr.tvec else ((s.fieldOf x.who.gang).map Field.controlBlock).getD 0

/-- A fatal event of a strand, as its record says it. -/
def State.fatalEvent (s : State) (x : Strand) (kind cause : Nat) (eaddr espc elpc : Word64) : FatalEvent :=
  { block := s.controlBlock x, head := kind + 256 * cause
    body := [eaddr, espc, elpc, x.fieldid, x.gangxy, x.corexy, x.strandid] }

/-- Writes a fatal record in the field's ASID: claim, body, then done with release; a fault abandons it (R452). -/
def State.writeFatal (s : State) (asid : BitVec 16) (e : FatalEvent) : State :=
  if e.block = 0 then s
  else
    match s.homeWord (e.block.toNat + 8) asid true 8 with
    | (s, none) => s
    | (s, some 0) => s
    | (s, some rec) =>
      match s.homeRmw rec asid true 8 (fun old => if old = 0 then e.head else old) with
      | (s, some 0) =>
        (s.homeSetAll asid true (e.body.mapIdx (fun i w => (rec + 8 + 8 * i, w)) ++ [(rec, BitVec.ofNat 64 (e.head + 65536))])).1
      | (s, _) => s

/-- The pages that a fatal record goes through may be accessed now: that of the control block and that of the record (R529, R532). -/
def State.fatalReady (s : State) (asid : BitVec 16) (e : FatalEvent) : State × Bool :=
  if e.block = 0 then (s, true)
  else
    match s.pageReady asid (e.block.toNat + 8) needRead with
    | (s, false) => (s, false)
    | (s, true) =>
      match s.homeWord (e.block.toNat + 8) asid true 8 with
      | (s, none) | (s, some 0) => (s, true)
      | (s, some rec) => s.pageReady asid rec needBoth

/-- A fatal event of a resident strand: the record, once its pages answer, and the host's interrupt behind it; the gang ends in any case. -/
def State.fatalEnd (s : State) (x : Strand) (e : FatalEvent) : State :=
  let g := x.who.gang
  match s.fatalReady g.asid e with
  | (s, true) => ((s.writeFatal g.asid e).stopGang g).raise 0
  | (s, false) => (s.stopGang g).modifyGang g (fun k => { k with fatal := some e })

/-- The record of a gang's fatal event that waited for the host. -/
def State.fatalLater (s : State) (k : Gang) (e : FatalEvent) : State :=
  match s.fatalReady k.id.asid e with
  | (s, true) => ((s.writeFatal k.id.asid e).modifyGang k.id (fun k => { k with fatal := none })).raise 0
  | (s, false) => s

/-- A fatal event of the strand with the turn: record, end of the gang, host interrupt. -/
def State.fatal (s : State) (kind : Nat) (lane : Bool) : State :=
  let x := s.me
  let s : State := { s with me := { x with sch := { x.sch with issuedNow := true } } }
  s.fatalEnd x (s.fatalEvent x kind x.tr.ecause.toNat x.tr.eaddr x.tr.espc (if lane then x.tr.elpc else 0))

/-! ## Trap entry (R451, R460) -/

/-- Lane instructions or a chain are in progress. -/
def Strand.laneBusy (x : Strand) : Bool := !x.lq.ops.isEmpty || x.lq.chain.isSome

/-- The held part of trap entry: runs are held, their pending marks set aside, a pause ends, sup := 1, pc at the handler. -/
def Strand.toHandler (x : Strand) (lane : Bool) (emask edone em : Mask) : Strand :=
  { x with
    tr := { x.tr with sup := true, lane, held := x.lq.runs.length, emask, edone, eem := #v[x.s[56], x.s[57], x.s[58]] }
    s := ((x.s.set 56 (maskPart em 0)).set 57 (maskPart em 1)).set 58 (maskPart em 2)
    asidePend := x.pend.filter (fun p => match p.2 with | .run _ => true | .reply _ => false)
    pend := x.pend.filter (fun p => match p.2 with | .run _ => false | .reply _ => true)
    lq := { x.lq with runs := [], held := x.lq.runs, draining := false, chain := none }
    sch := { x.sch with paused := 0, wait := .none, woken := false, blocked := 0, deadlock := none, parked := false, issuedNow := true }
    pc := x.tr.tvec + 0x40 }

/-- The operations of a strand that stopped at a fault. -/
def Strand.faultedOps (x : Strand) : List Nat := x.faults.map (fun f => f.op) ++ (match x.serving with | some f => [f.op] | none => [])

/-- Whether a trap of the strand is fatal, and of which kind: 1 in supervisor mode, 2 without a vector (R452). -/
def Strand.fatalKind (x : Strand) : Option Nat := if x.tr.sup then some 1 else if x.tr.tvec = 0 then some 2 else none

/-- Trap entry of scalar origin: cause, EADDR and the resume point are saved, then the handler is entered or the event is fatal. -/
def State.enterTrap (s : State) (cause : BitVec 8) (addr resume : Word64) : State :=
  let s := s.unstall s.me.who.id
  let x := ({ s.me with tr := { s.me.tr with ecause := cause, eaddr := addr, espc := resume } } : Strand).unparked s.clock
  match x.fatalKind with
  | some k => ({ s with me := x } : State).fatal k false
  | none => { s with me := x.toHandler false 0 0 0xFFFFFFFFFFFFFFFFFFFFFFFF#96 }

/-- Trap entry of lane origin: the faulting instruction idx of a run, its faulting lanes and the lanes that completed. The generators go back
to the states they had at the head of a chain, and the instruction or chain executes again from these (R67). In a gang that ends a trap is its
strand's boundary, and nothing more (R476). -/
def State.enterLaneTrap (s : State) (cause : BitVec 8) (addr : Word64) (run head idx : Nat) (elpc : Word64) (emask edone : Mask) : State :=
  let s := (s.leaveWait s.me).unstall s.me.who.id
  let x := { s.me with tr := { s.me.tr with ecause := cause, eaddr := addr, espc := s.me.pc, elpc } }
  if x.sch.retired then { s with me := { s.me with lq := { s.me.lq with chain := none } } }
  else match x.fatalKind with
  | some k => ({ s with me := { x with lq := { x.lq with chain := none } } } : State).fatal k true
  | none =>
    let gen := match x.lq.chain with | some c => c.gen | none => x.lq.headGen.getD x.lf.gen
    let resume := match x.lq.chain with
      | some c => some (c.run, c.head, if c.run = run ∧ c.head = head then idx else c.last)
      | none => x.lq.resume
    let y := x.toHandler true emask edone emask
    { s with me := { y with lf := { y.lf with gen }, lq := { y.lq with resume, delivered := some (run, idx, emask), headGen := some gen } } }

/-- The precise trap of the scalar instruction at the pc (R460): lane instructions in progress end first, and the instruction, which
has had no effect, traps when it executes again. -/
def State.trapAt (s : State) (cause : BitVec 8) (addr resume : Word64) : State :=
  if s.me.laneBusy then { s with me := { s.me with lq := { s.me.lq with draining := true }, sch := { s.me.sch with wait := .none } } }
  else s.enterTrap cause addr resume

/-- The precise trap of the instruction, with the instruction as the resume point. -/
def State.raiseTrap (s : State) (cause : BitVec 8) (addr : Word64) : State := s.trapAt cause addr s.me.pc

def undefinedCause : BitVec 8 := 0x01
def roleCause : BitVec 8 := 0x03
def typeCause : BitVec 8 := 0x04
def privilegeCause : BitVec 8 := 0x05
def misalignedCause : BitVec 8 := 0x06
def addressCause : BitVec 8 := 0x07
def protectionCause : BitVec 8 := 0x09
def illegalWaitCause : BitVec 8 := 0x10
def copyFaultCause : BitVec 8 := 0x21

/-- The Undefined trap of the instruction at the pc (R82). -/
def State.undefined (s : State) : State := s.raiseTrap undefinedCause 0

/-! ## One check order for scalar instructions (R105) -/

/-- Undefined for a bad encoding, then Role or Privilege, then the stall on the registers used, then the effect. -/
def State.checked (s : State) (ok : Bool) (role : Bool) (rs : List Reg) (eff : State → State) : State :=
  if !ok then s.undefined
  else if !role then s.raiseTrap roleCause 0
  else if s.pending rs then s.stall rs
  else eff s

/-- A register result: stall, else write the value and move on (R83). -/
def State.compute (s : State) (d : Reg) (srcs : List Reg) (v : Word64) : State :=
  if s.pending (d :: srcs) then s.stall (d :: srcs) else (s.setReg d v).advance

/-- The lane queue is empty (R22, R26). -/
def Strand.lanesEmpty (x : Strand) : Bool := x.lq.runs.isEmpty && x.lq.ops.isEmpty

/-- A fresh number. -/
def State.bump (s : State) : State := { s with nextId := s.nextId + 1 }

end Sys2Proof.Machine
end

