-- ==== Sys2Proof/Machine/Operands.lean ====
section
/-! DEFINITION. Operand forms of the lane instructions (R14, R28, R35, R36, R46, R108, R109, R111): reading sources, writing results,
active lanes, and the registers each instruction uses. -/

namespace Sys2Proof.Machine

/-! ## The executing run -/

/-- The run of a strand whose lane stream is empty: no lane is active in it. -/
def Run.idle : Run := { id := 0, start := 0, words := [], next := 0, k := [], em := 0, pol := [], done := [], marks := [], after := 0 }

/-- The run whose instruction executes next (R22). -/
def Strand.run (x : Strand) : Run := (x.lq.runs.find? (fun r => decide (r.next < r.words.length))).getD Run.idle

def allLanes : Mask := 0xFFFFFFFFFFFFFFFFFFFFFFFF#96

/-- The lanes that an instruction of a run has completed (R459). -/
def Run.doneAt (r : Run) (i : Nat) : Mask := r.done.foldl (fun m d => if d.1 = i then m ||| d.2 else m) 0

/-- The active lanes under a selector (R108). -/
def Strand.active (x : Strand) (sel : BitVec 3) : Mask :=
  if sel = 0 then x.run.em else x.run.em &&& x.lf.m[sel.toFin]

/-- The active lanes outside the done set (R459). -/
def Strand.todo (x : Strand) (sel : BitVec 3) : Mask := x.active sel &&& ~~~(x.run.doneAt x.run.next)

/-! ## Element images (R46, R56) -/

/-- The element a register image holds. -/
def elemOf (t : Ty) (raw : Nat) : Nat := if t == .bs24 then raw % 2 ^ 32 / 256 else raw % 2 ^ t.width

/-- The register image of an element: i8 and i16 sign-extended to 32 bits, a bs24 in bits 31:8, everything else zero-extended. -/
def imageOf (t : Ty) (e : Nat) : Nat :=
  match t with
  | .i8 => if e % 256 < 128 then e % 256 else e % 256 + 0xFFFFFF00
  | .i16 => if e % 65536 < 32768 then e % 65536 else e % 65536 + 0xFFFF0000
  | .bs24 => e % 2 ^ 24 * 256
  | _ => e % 2 ^ t.width

/-- The immediate as an element (R36). DEDUCED, unsafe: log 19. -/
def immElem (t : Ty) (w : Word32) : Nat :=
  match t with
  | .i64 | .n64 => (w.signExtend 64).toNat
  | .f64 =>
    match Arith.f32.val w.toNat with
    | .nan n p => Arith.f64.signed n (Arith.f64.infCode + p)
    | v => (Arith.cvtFloat Arith.f32 Arith.f64 Arith.nearest v).1
  | _ => elemOf t w.toNat

/-- The register image an operand supplies to a lane, `wide` for a pair. -/
def Strand.image (x : Strand) (wide : Bool) (o : Opnd) (l : Lane) : Nat :=
  match o with
  | .v n => if wide then (x.lf.v[n][l]).toNat + 2 ^ 32 * (x.lf.v[n + 1][l]).toNat else (x.lf.v[n][l]).toNat
  | .acc n => (x.lf.a[n][l]).toNat
  | .x n => (x.lf.x[n][l]).toNat
  | .k n => (x.run.k.getD n.val 0).toNat
  | .imm | .zero => 0
  | .lane => l.val

/-- The element of type t that an operand supplies to a lane (R109). -/
def Strand.elem (x : Strand) (f : LaneFields) (t : Ty) (o : Opnd) (l : Lane) : Nat :=
  match o with
  | .imm => immElem t f.w2
  | .acc _ => x.image false o l
  | o => elemOf t (x.image t.wide o l)

/-- The 32 bits an operand supplies: packed elements (R111), headers, bounds, offsets. -/
def Strand.word (x : Strand) (f : LaneFields) (o : Opnd) (l : Lane) : Nat :=
  match o with
  | .imm => f.w2.toNat
  | o => x.image false o l % 2 ^ 32

/-- The 64 bits an operand supplies: base addresses (R140). -/
def Strand.dword (x : Strand) (o : Opnd) (l : Lane) : Word64 := BitVec.ofNat 64 (x.image true o l)

/-! ## Writing -/

/-- A vector with the lanes of a mask replaced. -/
def blend {n : Nat} (m : Mask) (old : Vector (BitVec n) 96) (new : Vector Nat 96) : Vector (BitVec n) 96 :=
  lanes (fun l => if m.getLsbD l.val then BitVec.ofNat n new[l] else old[l])

/-- Images written to a destination in the lanes of a mask; a pair takes both halves (R14, R109). -/
def LaneFile.put (lf : LaneFile) (o : Opnd) (wide : Bool) (m : Mask) (new : Vector Nat 96) : LaneFile :=
  match o with
  | .v n =>
    let lo := { lf with v := lf.v.set n (blend m lf.v[n] new) }
    let hi : Fin 128 := n + 1
    if wide then { lo with v := lo.v.set hi (blend m lo.v[hi] (new.map (· / 2 ^ 32))) } else lo
  | .acc n => { lf with a := lf.a.set n (blend m lf.a[n] new) }
  | .x n => { lf with x := lf.x.set n (blend m lf.x[n] new) }
  | _ => lf

/-- A mask register with the lanes of a mask replaced (R121). -/
def LaneFile.putMask (lf : LaneFile) (k : Fin 8) (act new : Mask) : LaneFile :=
  { lf with m := lf.m.set k ((lf.m[k] &&& ~~~act) ||| (new &&& act)) }

/-- The mask of lanes that satisfy p. -/
def maskOf (p : Lane → Bool) : Mask :=
  (List.finRange 96).foldl (fun (m : Mask) l => if p l then m ||| (1#96 <<< l.val) else m) 0

/-- The lanes a destination takes: a latch takes every active lane, a register the lanes not yet done (R461). -/
def Strand.writeMask (x : Strand) (f : LaneFields) (dst : Opnd) : Mask :=
  match dst with
  | .x _ => x.active f.sel
  | _ => x.todo f.sel

/-! ## The registers an instruction uses -/

/-- Registers by kind and number, as vectors, accumulators, latches and masks. -/
structure Uses where
  v : List Nat
  a : List Nat
  x : List Nat
  m : List Nat
  deriving DecidableEq, Repr

def Uses.nothing : Uses := ⟨[], [], [], []⟩

/-- Adds an operand; `wide` for a pair. -/
def Uses.add (u : Uses) (o : Opnd × Bool) : Uses :=
  match o.1 with
  | .v n => { u with v := (if o.2 then [n.val, n.val + 1] else [n.val]) ++ u.v }
  | .acc n => { u with a := n.val :: u.a }
  | .x n => { u with x := n.val :: u.x }
  | _ => u

def Uses.meets (p q : Uses) : Bool :=
  p.v.any q.v.contains || p.a.any q.a.contains || p.x.any q.x.contains || p.m.any q.m.contains

/-- The source operands of a lane instruction, with whether each reads a pair. -/
def laneSources (i : Instr) (f : LaneFields) : List (Opnd × Bool) :=
  let w := f.ty.wide
  let c : List (Opnd × Bool) := if f.usesImm then [] else match f.c with | some o => [(o, w)] | none => []
  match i with
  | .vfma _ | .vimad _ => [(f.a, w), (f.b, w)] ++ c
  | .vaddBe _ | .vmulBe _ | .vmaxBe _ => [(f.a, true), (f.b, true)]
  | .vfmaBe _ => [(f.a, true), (f.b, true)] ++ c.map (fun (p : Opnd × Bool) => (p.1, true))
  | .vcvtBe _ | .vbound _ => [(f.a, true)]
  | .vcvt _ => [(f.a, match f.cvtSrc with | some s => s.wide | none => false)]
  | .vqblk _ => [(f.a, false)]
  | .vdqblk _ => [(f.a, false), (f.b, false)]
  | .afma _ => [(f.a, w), (f.b, w), (f.dst, false)]
  | .aclr _ | .vldl _ | .vldlBe _ => []
  | .vaccept _ => [(f.dst, true), (f.b, false)]
  | .vshuf _ => [(f.a, w), (f.b, false)]
  | .vld _ | .vpref _ => [(f.a, true), (f.b, false)]
  | .vst _ | .vatom _ | .vred _ => [(f.a, true), (f.b, false)] ++ c
  | .vstl _ => c
  | .vcas _ => [(f.a, true), (f.b, w)] ++ c
  | .lcopy _ => [(f.a, true), (f.b, false)] ++ c.map (fun (p : Opnd × Bool) => (p.1, false))
  | .vabs _ | .vneg _ | .vsqrt _ | .vrcp _ | .vrsq _ | .vexp2 _ | .vlog2 _ | .vrnd _ | .viabs _ | .vnot _ | .vpopc _ | .vclz _
  | .vclass _ | .vmov _ | .awiden _ | .anarrow _ | .vlane _ | .vbcast _ | .vredu _ | .vscan _ | .vmatch _ | .vvote _ | .vsort _
  | .vcompress _ => [(f.a, w)]
  | _ => [(f.a, w), (f.b, w)]

/-- The destination operands of a lane instruction, with whether each writes a pair. -/
def laneDests (i : Instr) (f : LaneFields) : List (Opnd × Bool) :=
  match i with
  | .vcmp _ | .vlane _ | .vbound _ | .vst _ | .vstl _ | .vred _ | .lcopy _ | .vpref _ => []
  | .vclass _ | .vmatch _ => [(f.dst, false)]
  | .vqblk _ | .vsort _ | .vaddBe _ | .vmulBe _ | .vfmaBe _ | .vmaxBe _ | .vcvtBe _ | .vldlBe _ => [(f.dst, true)]
  | .vaccept _ => [(f.dst, false)]
  | _ => [(f.dst, f.ty.wide)]

/-- The mask register a lane instruction reads beyond its selector, and the one it writes. -/
def maskRead (i : Instr) (f : LaneFields) : List Nat :=
  (if f.sel = 0 then [] else [f.sel.toNat]) ++
    (match i with
     | .vsel _ => [f.maskNo.val]
     | .vcompress _ => [(f.w2.extractLsb' 9 3).toNat]
     | _ => [])

def maskWritten (i : Instr) (f : LaneFields) : List Nat :=
  match i with
  | .vcmp _ | .vmatch _ => [f.maskNo.val]
  | .vaccept _ => [7]
  | _ => []

/-- The registers a lane instruction reads. -/
def laneReads (i : Instr) : Uses :=
  match laneParts i with
  | none => .nothing
  | some (_, f) => { (laneSources i f).foldl Uses.add .nothing with m := maskRead i f }

/-- The registers a lane instruction writes. -/
def laneWrites (i : Instr) : Uses :=
  match laneParts i with
  | none => .nothing
  | some (_, f) => { (laneDests i f).foldl Uses.add .nothing with m := maskWritten i f }

/-- A memory instruction, opcodes 0x50–0x58 (R30). -/
def laneMemory (i : Instr) : Bool :=
  match laneParts i with
  | some (o, _) => decide (0x50 ≤ o.toNat) && decide (o.toNat ≤ 0x58)
  | none => false

/-! ## The bounded tag (R15, R135) -/

def LaneFile.tagged (lf : LaneFile) (n : Nat) : Bool := lf.tag.getLsbD n
def LaneFile.setTag (lf : LaneFile) (n : Nat) (b : Bool) : LaneFile :=
  { lf with tag := if b then lf.tag ||| (1#128 <<< n) else lf.tag &&& ~~~(1#128 <<< n) }

/-- A vector operand whose tag is set. -/
def LaneFile.isTagged (lf : LaneFile) : Opnd → Bool
  | .v n => lf.tagged n.val
  | _ => false

/-- The instruction reads a tagged register that it may not read. -/
def LaneFile.badRead (lf : LaneFile) (i : Instr) : Bool :=
  match i with
  | .vaddBe _ | .vmulBe _ | .vfmaBe _ | .vmaxBe _ | .vcvtBe _ | .vaccept _ | .vbound _ => false
  | i => (laneReads i).v.any lf.tagged

/-- The instruction writes a tagged register or the companion of one, and is no bounded form. -/
def LaneFile.badWrite (lf : LaneFile) (i : Instr) : Bool :=
  match i with
  | .vaddBe _ | .vmulBe _ | .vfmaBe _ | .vmaxBe _ | .vcvtBe _ | .vldlBe _ | .vaccept _ => false
  | i => (laneWrites i).v.any (fun n => lf.tagged n || (n % 2 == 1 && lf.tagged (n - 1)))

end Sys2Proof.Machine
end

