-- ==== Sys2Proof/Machine/Flags.lean ====
section
/-! DEFINITION. Flags and draws of lane instructions (R65, R73, R74), retirement of a lane instruction (R22, R24), lane traps (R114), and the
elementwise form R115 that most lane instructions take. -/

namespace Sys2Proof.Machine

open Arith (Flags Res Rounding)

/-! ## The generator (R65) -/

/-- next(l): the new state is the draw. -/
def xorshift (g : Word32) : Word32 :=
  let x := g ^^^ (g <<< 13)
  let x := x ^^^ (x >>> 17)
  x ^^^ (x <<< 5)

/-- The generators with `n` draws taken in the lanes of a mask. -/
def drawn (gen : Vector Word32 96) (m : Mask) (n : Nat) : Vector Word32 96 :=
  lanes (fun l => if m.getLsbD l.val then (List.range n).foldl (fun g _ => xorshift g) gen[l] else gen[l])

/-- The rounding of the k-th result value a lane delivers (R63–R65). -/
def Strand.rounding (x : Strand) (f : LaneFields) (k : Nat) (l : Lane) : Rounding :=
  ⟨Arith.modeOf f.sr f.rm, if f.sr then ((List.range (k + 1)).foldl (fun g _ => xorshift g) x.lf.gen[l]).toNat else 0⟩

/-! ## Flags (R73, R74) -/

/-- The flags of the lanes of a mask, together. -/
def gather (m : Mask) (fl : Vector Flags 96) : Flags :=
  (List.finRange 96).foldl (fun (a : Flags) l => if m.getLsbD l.val then a ||| fl[l] else a) 0

/-- Accrues flags into FLAGS, or into the chain in progress (R74, R461). -/
def Strand.accrue (x : Strand) (fl : Flags) : Strand :=
  match x.lq.chain with
  | some c => { x with lq := { x.lq with chain := some { c with flags := c.flags ||| fl } } }
  | none => { x with sy := { x.sy with flags := x.sy.flags ||| fl } }

/-! ## Retirement (R22, R24, R29, R32) -/

/-- Removes the first mark of a register by a run. -/
def dropMark (pend : List (Reg × Source)) (r : Reg) (run : Nat) : List (Reg × Source) := pend.erase (r, .run run)

/-- A run is complete when every instruction has issued and none of its operations is outstanding (R22). -/
def LaneStream.complete (q : LaneStream) (r : Run) : Bool := decide (r.words.length ≤ r.next) && !q.ops.any (fun o => o.run == r.id)

/-- Frees the entries of complete runs, and with them the marks of a run whose writer never executed. -/
def Strand.freeRuns (x : Strand) : Strand :=
  { x with lq := { x.lq with runs := x.lq.runs.filter (fun r => !x.lq.complete r) } }

/-- Changes the executing run. -/
def Strand.setRun (x : Strand) (f : Run → Run) : Strand :=
  { x with lq := { x.lq with runs := x.lq.runs.map (fun r => if r.id == x.run.id then f r else r) } }

/-- The chain ends with its last member: its flags accrue once and its latches are lost. -/
def Strand.endChain (x : Strand) (run idx : Nat) : Strand :=
  match x.lq.chain with
  | some c =>
    if c.run = run ∧ c.last = idx then { x with lq := { x.lq with chain := none }, sy := { x.sy with flags := x.sy.flags ||| c.flags } } else x
  | none => x

/-- The lane program counter passes the instruction; `complete` marks it done in every lane (R459). -/
def Strand.passLane (x : Strand) (complete : Bool) : Strand :=
  let idx := x.run.next
  let marks := x.run.marks.filter (fun (m : Nat × Reg) => m.1 == idx)
  let pend := if complete then marks.foldl (fun (p : List (Reg × Source)) (m : Nat × Reg) => dropMark p m.2 x.run.id) x.pend else x.pend
  let y : Strand := { x with pend }
  let y := y.setRun (fun (r : Run) => { r with
    next := r.next + 1
    done := if complete then r.done ++ [(idx, allLanes)] else r.done
    marks := if complete then r.marks.filter (fun (m : Nat × Reg) => m.1 != idx) else r.marks })
  if complete then (y.endChain x.run.id idx).freeRuns else y

/-- A lane instruction that accesses no memory completes, with the flags it raised. -/
def Strand.retireLane (x : Strand) (fl : Flags) : Strand :=
  let y := (x.accrue fl).passLane true
  { y with sch := { y.sch with issuedNow := true } }

/-- A scalar result of a lane instruction (R110): written once, unless every lane was already done. -/
def State.deliver (s : State) (f : LaneFields) (v : Word64) : State := if f.wb then s else s.setReg f.sdx v

/-! ## Lane traps (R114) -/

/-- The head of the chain in progress, or the instruction itself. -/
def Strand.chainHead (x : Strand) : Nat := match x.lq.chain with | some c => c.head | none => x.run.next

/-- A trap of the executing lane instruction: earlier ones complete first, then every active lane is a faulting lane. DEDUCED, unsafe: log 24. -/
def State.laneTrap (s : State) (cause : BitVec 8) (addr : Word64) (faulting : Mask) : State :=
  let x := s.me
  if x.lq.ops.isEmpty then
    let head := x.chainHead
    let x' := x.setRun (fun (r : Run) => { r with next := head })
    ({ s with me := x' } : State).enterLaneTrap cause addr x.run.id head x.run.next (x.run.start + BitVec.ofNat 64 (12 * head)) faulting
      (x.run.doneAt x.run.next &&& x.run.em)
  else s

/-- The static checks of R114 in order: Undefined, then the Type traps of tagged registers, then the effect. -/
def State.laneChecked (s : State) (i : Instr) (f : LaneFields) (eff : State → State) : State :=
  if !i.wellFormed then s.laneTrap undefinedCause 0 (s.me.active f.sel)
  else if s.me.lf.badRead i || s.me.lf.badWrite i then s.laneTrap typeCause 0 (s.me.active f.sel)
  else eff s

/-! ## Elementwise instructions (R115) -/

/-- An operation on element codes under a rounding. -/
abbrev Elt := Rounding → Nat → Nat → Nat → Res

/-- The image and flags of one lane of an elementwise instruction: source types of A, B and C, destination type. -/
def Strand.lane1 (x : Strand) (f : LaneFields) (ta tb tc td : Ty) (op : Elt) (l : Lane) : Res :=
  let c : Opnd := if f.usesImm then .zero else f.c.getD .zero
  let r := op (x.rounding f 0 l) (x.elem f ta f.a l) (x.elem f tb f.b l) (x.elem f tc c l)
  (imageOf td r.1, r.2)

/-- The packed form: two 16-bit elements, each with its own draw (R111). -/
def Strand.lane2 (x : Strand) (f : LaneFields) (op : Elt) (l : Lane) : Res :=
  let c : Opnd := if f.usesImm then .zero else f.c.getD .zero
  let a := x.word f f.a l
  let b := x.word f f.b l
  let c := x.word f c l
  let lo := op (x.rounding f 0 l) (a % 65536) (b % 65536) (c % 65536)
  let hi := op (x.rounding f 1 l) (a / 65536) (b / 65536) (c / 65536)
  (lo.1 % 65536 + 65536 * (hi.1 % 65536), lo.2 ||| hi.2)

/-- The lanes whose draws and flags count: in a chain every active lane, elsewhere the lanes not yet done (R461). -/
def Strand.evalMask (x : Strand) (f : LaneFields) : Mask := if x.lq.chain.isSome then x.active f.sel else x.todo f.sel

/-- Writes the lanes' results to the destination, takes the draws, accrues the flags and retires. -/
def Strand.finishLanes (x : Strand) (f : LaneFields) (wide : Bool) (draws : Nat) (rs : Vector Res 96) : Strand :=
  let act := x.evalMask f
  let lf := x.lf.put f.dst wide (x.writeMask f f.dst) (rs.map (·.1))
  let y : Strand := { x with lf := { lf with gen := if f.sr then drawn x.lf.gen act draws else lf.gen } }
  y.retireLane (gather act (rs.map (·.2)))

/-- An elementwise instruction with no check of its own. -/
def State.elementwise (s : State) (i : Instr) (f : LaneFields) (ta tb tc td : Ty) (op : Elt) : State :=
  s.laneChecked i f (fun s =>
    { s with me := s.me.finishLanes f td.wide 1 (lanes (s.me.lane1 f ta tb tc td op)) })

/-- An elementwise instruction with a packed form (R111). -/
def State.packable (s : State) (i : Instr) (f : LaneFields) (op : Elt) : State :=
  s.laneChecked i f (fun s =>
    if f.pk then { s with me := s.me.finishLanes f false 2 (lanes (s.me.lane2 f op)) }
    else { s with me := s.me.finishLanes f f.ty.wide 1 (lanes (s.me.lane1 f f.ty f.ty f.ty f.ty op)) })

end Sys2Proof.Machine
end

