-- ==== Sys2Proof/Machine/Access.lean ====
section
/-! DEFINITION. Accesses between issue and reply: local regions (R233–R238), order (R27, R302–R311), the levels an access passes
(R232, R239–R242, R286–R288), atomic operations (R283–R290), replies (R103, R266) and fault replies (R458, R464). -/

namespace Sys2Proof.Machine

/-! ## Local regions (R233–R235) -/

/-- Bytes of the bounded part and of the exact part of C. -/
def Crew.boundedBytes (c : Crew) : Nat := c.c / 4 * 1024
def Crew.exactBytes (c : Crew) : Nat := c.c * 1024 - c.boundedBytes

/-- The bound of a space (R235). -/
def Crew.limit (c : Crew) (sp : Nat) : Nat :=
  match sp with
  | 1 => c.g * 1024
  | 2 => c.w * 1024
  | 3 => c.a * 1024
  | 4 => c.exactBytes
  | 5 => c.boundedBytes
  | _ => 0

/-- A size in KiB rounded up to a multiple of 4 (R159). -/
def roundUp4 (n : Nat) : Nat := (n + 3) / 4 * 4

def bufCode : Buf → Nat | .g => 0 | .w => 1 | .a => 2 | .c => 3

/-- The declared size of a crew's region in a buffer. -/
def Crew.sizeOf (c : Crew) (u : Buf) : Nat := match u with | .g => c.g | .w => c.w | .a => c.a | .c => c.c

/-- The bank of a buffer that holds a byte of a crew's region. DESIGN CHOICE, safe: log 70. -/
def Crew.bankAt (c : Crew) (u : Buf) (off : Nat) : Nat := Config.regionBank (c.rss.headD 0).val (bufCode u) off

/-- Some region of a crew covers one of the banks (R263, R264). -/
def Crew.onBanks (c : Crew) (bs : List (Buf × Nat)) : Bool :=
  bs.any (fun b => (List.range (1024 * roundUp4 (c.sizeOf b.1))).any (fun o => c.bankAt b.1 o == b.2))

/-- The buffer of a space and the offset of the space's first byte in its region. -/
def Crew.bufOf (c : Crew) (sp : Nat) : Buf × Nat :=
  match sp with
  | 1 => (.g, 0)
  | 2 => (.w, 0)
  | 3 => (.a, 0)
  | 4 => (.c, 0)
  | _ => (.c, c.exactBytes)

/-- n bytes of a space from an offset. The bounded part stands behind the exact part of C. -/
def Crew.load (c : Crew) (sp off n : Nat) : List Byte :=
  match sp with
  | 1 => c.mg.bytes off n
  | 2 => c.mw.bytes off n
  | 3 => c.ma.bytes off n
  | 4 => c.mc.bytes off n
  | _ => c.mc.bytes (c.exactBytes + off) n

def Crew.store (c : Crew) (sp off : Nat) (bs : List Byte) : Crew :=
  match sp with
  | 1 => { c with mg := c.mg.writeBytes off bs }
  | 2 => { c with mw := c.mw.writeBytes off bs }
  | 3 => { c with ma := c.ma.writeBytes off bs }
  | 4 => { c with mc := c.mc.writeBytes off bs }
  | _ => { c with mc := c.mc.writeBytes (c.exactBytes + off) bs }

/-- The G offset of queue q's descriptor (R201, R202). -/
def Crew.descriptor (c : Crew) (q : Nat) : Nat := c.qbase.toNat * 1024 + 32 * q

/-- The 32 bytes at a G offset are the descriptor of a defined queue (R201–R203): `qdef` wrote them, and they say so. -/
def Crew.definesAt (c : Crew) (d : Nat) : Bool := decide (d + 32 ≤ c.g * 1024) && c.qdefs.contains d && (c.mg.read (d + 7)).getLsbD 7

/-- Bytes off … off + n − 1 of G touch the descriptor of a defined queue (R203). -/
def Crew.touchesDescriptor (c : Crew) (off n : Nat) : Bool :=
  (List.range 32).any (fun q =>
    let d := c.descriptor q
    decide (d < off + n) && decide (off < d + 32) && c.definesAt d)

/-- The crew and the offset an address of space 1 to 6 reaches, or the trap it raises (R234, R235, R237). -/
def State.localPlace (s : State) (x : Strand) (sp : Nat) (ea : Word64) : Except (BitVec 8) (Nat × Nat) :=
  if sp = 6 then
    let peer := wordBits ea 23 18
    let off := wordBits ea 17 0
    if wordBits ea 63 24 ≠ 0 ∨ x.who.cores ≤ peer then .error addressCause
    else
      match s.crewOf x.who.gang peer with
      | some c => if c.g * 1024 ≤ off then .error addressCause else .ok (peer, off)
      | none => .error addressCause
  else
    match s.crewOf x.who.gang x.who.peer with
    | none => .error addressCause
    | some c =>
      if ea.toNat < c.limit sp then .ok (x.who.peer, ea.toNat)
      else if sp = 4 ∧ ea.toNat < c.c * 1024 then .error typeCause
      else .error addressCause

/-- The trap of one address of an access of n bytes, in the order of R275: Address or Type, then Misaligned. -/
def State.addressTrap (s : State) (x : Strand) (sp : Nat) (ea : Word64) : Option (BitVec 8) :=
  if sp = 0 then (if canonical ea then none else some addressCause)
  else match s.localPlace x sp ea with
    | .error c => some c
    | .ok _ => none

def misaligned (ea : Word64) (n : Nat) : Bool := ea.toNat % n != 0

/-- Bytes of a crew's space stand in a bank that is waking: an access to them stalls (R264). -/
def State.wakingAt (s : State) (c : Crew) (sp off n : Nat) : Bool :=
  let u := c.bufOf sp
  (s.core c.core).waking.any (fun b => b.1 == u.1 && (List.range n).any (fun i => c.bankAt u.1 (u.2 + off + i) == b.2))

/-- The write touches a defined queue's descriptor (R203). -/
def State.hitsDescriptor (s : State) (x : Strand) (sp : Nat) (ea : Word64) (n : Nat) : Bool :=
  if sp = 1 ∨ sp = 6 then
    match s.localPlace x sp ea with
    | .ok (peer, off) => match s.crewOf x.who.gang peer with
      | some c => c.touchesDescriptor off n
      | none => false
    | .error _ => false
  else false

/-! ## Order among the accesses of a strand (R27, R302–R306, R311) -/

def Kind.reduces : Kind → Bool
  | .atomic _ ret => !ret
  | _ => false

/-- Reads, writes and atomics: what the ordering rules speak of. -/
def Kind.ordered : Kind → Bool
  | .prefetch _ | .operation => false
  | _ => true

/-- Loads, stores and atomics, which the limits of R457 and the replay list speak of; lock instructions are not among them. -/
def Kind.plain : Kind → Bool
  | .load | .store | .atomic _ _ | .cas => true
  | _ => false

/-- The lock instructions of device scope (R217). -/
def Kind.locks : Kind → Bool
  | .rlock | .wlock | .runlock | .wunlock => true
  | _ => false

def Access.isScalar (a : Access) : Bool := match a.origin with | .scalar _ _ => true | .lane _ _ => false

def Access.performed (a : Access) : Bool := match a.status with | .done _ => true | _ => false
def Access.isFaulted (a : Access) : Bool := match a.status with | .faulted _ => true | _ => false


def Access.overlaps (a b : Access) : Bool :=
  a.space == b.space && decide (a.va.toNat < b.va.toNat + b.size) && decide (b.va.toNat < a.va.toNat + a.size)

/-- The access returns data to its strand. -/
def Kind.reads : Kind → Bool
  | .store => false
  | .atomic _ ret => ret
  | _ => true

/-! ## Routes and ports (R509, R510, R519, R520) -/

def peerDevice (va : Word64) : Nat := wordBits va 55 45
def peerOffset (va : Word64) : Nat := wordBits va 44 0

def State.port (s : State) (p : PortId) : FabricPort := Table.get s.ports p .reset
def State.setPort (s : State) (p : PortId) (q : FabricPort) : State := { s with ports := Table.put s.ports p q }

/-- The port of a device's route, and its multicast group. -/
def State.routePort (s : State) (dev : Nat) : PortId :=
  let r := Table.get s.host.peerrt dev 0
  ⟨Fin.ofNat 4 (wordBits r 1 0), Fin.ofNat 6 (wordBits r 5 3)⟩
def State.routeGroup (s : State) (dev : Nat) : Nat := wordBits (Table.get s.host.peerrt dev 0) 15 8

/-- A port of the optical kind. -/
def isOptical (p : PortId) : Bool := decide (4 ≤ p.port.val)

/-- One of the port's receivers is tuned to a star port (R519). -/
def FabricPort.tuned (q : FabricPort) (star : Nat) : Bool :=
  (List.range 4).any (fun k => q.rxtune.getLsbD (5 * k + 4) && decide (bitsOf q.rxtune.toNat (5 * k + 3) (5 * k) = star))

/-- The port's links: an optical one needs a receiver on each side tuned to the other's band, so that there are at most 4 (R519). -/
def FabricPort.links (q : FabricPort) (p : PortId) : List FabricLink :=
  (q.partners.filter (fun e => e.2.hears && (if isOptical p then q.tuned e.1 else e.1 == 0))).map (fun e => e.2)

/-- The linked devices that a flit is for (R517, R520). -/
def FabricPort.receivers (q : FabricPort) (p : PortId) : FlitDest → List Nat
  | .device d => ((q.links p).filter (fun l => l.device == d)).map (fun l => l.device)
  | .group g => ((q.links p).filter (fun l => l.groups.contains g)).map (fun l => l.device)
  | .pair => []

/-- Whom the request of an access is for: a store on a route with a group goes to its members (R524). -/
def State.peerDest (s : State) (a : Access) : FlitDest :=
  let dev := peerDevice a.va
  if a.kind == .store && s.routeGroup dev != 0 then .group (s.routeGroup dev) else .device dev

/-- The devices at which the request of an access is performed. -/
def State.peerTargets (s : State) (a : Access) : List Nat :=
  match s.peerDest a with
  | .group g => let p := s.routePort (peerDevice a.va); (s.port p).receivers p (.group g)
  | _ => [peerDevice a.va]

/-- Both accesses write at one peer device, where the writes of a stream are performed in issue order (R515, R524). -/
def State.samePeer (s : State) (a b : Access) : Bool :=
  a.space == 0 && b.space == 0 && aperture a.va && aperture b.va && !a.kind.reads && !b.kind.reads &&
    (s.peerTargets a).any (fun d => (s.peerTargets b).contains d)


/-- The earlier access b stands before a in the stream order of R27: same stream, or a scalar access before the run's `lrun`. -/
def Access.before (b a : Access) : Bool :=
  match b.origin, a.origin with
  | .scalar _ _, .scalar _ _ => decide (b.n < a.n)
  | .lane p _, .lane q _ => p != q && decide (b.n < a.n)
  | .scalar _ _, .lane _ _ => decide (b.n < a.run)
  | .lane _ _, .scalar _ _ => false

/-- The unperformed access b holds a back: it stands earlier and covers the same bytes (R302), is an acquire (R306), stands before a release (R305)
or before the em write that a's run follows (R311), or stands before a in the replay list (R458). A return-free
reduction counts as an engine operation: it follows earlier accesses of the same bytes and holds nothing back (R296, R302, R314, R316). -/
def Strand.blocks (x : Strand) (b a : Access) : Bool :=
  b.kind.ordered && !b.performed && b.before a &&
    ((a.overlaps b && !b.kind.reduces) ||
     (Pol.acquire b.pol && !b.kind.reduces) ||
     (Pol.release a.pol && !b.kind.reduces) ||
     (!a.isScalar && !b.isScalar && decide (b.run < a.after)) ||
     (x.redo.contains b.n && x.redo.contains a.n))

/-- The unperformed access b comes before a: by the order of the strand's accesses, or as an earlier write to the same peer (R515). -/
def State.holdsBack (s : State) (x : Strand) (b a : Access) : Bool :=
  x.blocks b a || (b.kind.ordered && !b.performed && b.before a && s.samePeer a b)

/-- Every access that must come first has been performed. -/
def State.mayPerform (s : State) (x : Strand) (a : Access) : Bool := !s.access.any (fun b => b.strand == a.strand && s.holdsBack x b a)

/-- The accesses of a strand that cannot be performed before a trap: those that faulted, and those that the ordering rules hold behind
one of them, in issue order. -/
def State.stuck (s : State) (x : Strand) : List Access :=
  (s.access.filter (fun a => a.strand == x.who.id && a.kind.ordered)).foldl
    (fun acc a => if a.isFaulted || (!a.performed && acc.any (fun b => s.holdsBack x b a)) then acc ++ [a] else acc) []

/-- Every earlier access of the strand's scalar stream is performed, return-free reductions apart (R295, R305). -/
def State.drained (s : State) : Bool :=
  !s.access.any (fun b => b.strand == s.me.who.id && b.isScalar && b.kind.ordered && !b.kind.reduces && !b.performed)

/-! ## Issue -/

def State.addAccess (s : State) (a : Access) : State := ({ s with access := s.access ++ [a] } : State).bump

/-- An access of the strand with the turn; a lane access belongs to the run that executes. -/
def State.newAccess (s : State) (origin : Origin) (entry : Bool) (kind : Kind) (sp : Nat) (ea : Word64) (n : Nat) (data cmp : Word64)
    (pol : Word32) : Access :=
  let lane := match origin with | .lane _ _ => true | .scalar _ _ => false
  { n := s.nextId, run := if lane then s.me.run.id else 0, after := if lane then s.me.run.after else 0, sent := false
    strand := s.me.who.id, gang := s.me.who.gang, origin, entry, kind, space := BitVec.ofNat 3 sp, va := ea, size := n
    asid := s.me.sy.asid, sup := s.me.tr.sup, data, cmp, pol, line := none, status := .issued }

/-- Entries of the waiting table in use on a core: one for each scalar access and one for each lane instruction (R265). -/
def State.tableUse (s : State) (c : CoreId) : Nat :=
  let mine := s.access.filter (fun a => a.strand.core == c && a.entry)
  let scalars := (mine.filter Access.isScalar).length
  let ops := (mine.filterMap (fun a => match a.origin with | .lane op _ => some (op, a.strand) | .scalar _ _ => none)).eraseDups.length
  scalars + ops

/-- A stalled request: its strand and whether the lane stream asks. -/
abbrev Request := StrandId × Bool

/-- A waiting-table entry is free for a request of the strand with the turn: each of the stalled requests that have waited longer holds a
freed entry (R267). -/
def State.entryFree (s : State) (lane : Bool) : Bool :=
  let ahead := (s.core s.me.who.id.core).stalled.takeWhile (fun e => e.2 != (s.me.who.id, lane))
  decide (s.tableUse s.me.who.id.core + ahead.length < 256)

/-- The request that has waited longer, ties to the lowest resident index (R267). -/
def stalledBefore (e f : Nat × Request) : Bool := decide (e.1 < f.1) || (e.1 == f.1 && decide (e.2.1.rs.val < f.2.1.rs.val))

/-- A request joins the stalled ones of its core, in the order of R267. -/
def joinStalled (e : Nat × Request) : List (Nat × Request) → List (Nat × Request)
  | [] => [e]
  | f :: fs => if stalledBefore e f then e :: f :: fs else f :: joinStalled e fs

/-- A core with a request among its stalled ones since its present cycle. -/
def Core.stall (c : Core) (r : Request) : Core :=
  if c.stalled.any (fun e => e.2 == r) then c else { c with stalled := joinStalled (c.cycles, r) c.stalled }

/-- The strand's request stalls for an entry. -/
def State.stallEntry (s : State) (lane : Bool) : State :=
  s.setCore s.me.who.id.core ((s.core s.me.who.id.core).stall (s.me.who.id, lane))

/-- The strand's request has its entry. -/
def State.takeEntry (s : State) (lane : Bool) : State :=
  let c := s.core s.me.who.id.core
  s.setCore s.me.who.id.core { c with stalled := c.stalled.filter (fun e => e.2 != (s.me.who.id, lane)) }

/-- Outstanding scalar global accesses of the strand with the turn (R457). -/
def State.outstanding (s : State) : Nat :=
  (s.access.filter (fun a => a.strand == s.me.who.id && a.isScalar && a.space == 0 && a.kind.plain)).length

/-- No scalar global access of the strand has received a fault reply (R458). -/
def State.mayIssue (s : State) : Bool :=
  decide (s.outstanding < 15) && s.me.redo.isEmpty && (s.me.replay.isEmpty || s.me.tr.sup) && s.me.failed.isEmpty &&
    !s.access.any (fun a => a.strand == s.me.who.id && a.isScalar && a.kind.plain && a.isFaulted)

/-! ## Access results -/

def State.setStatus (s : State) (n : Nat) (st : Status) : State :=
  { s with access := s.access.map (fun a => if a.n = n then { a with status := st } else a) }

def State.dropAccess (s : State) (n : Nat) : State := { s with access := s.access.filter (fun a => a.n != n) }

/-- An access waits for a walker of its home, behind those that came before it (R250). -/
def State.startWalk (s : State) (a : Access) : State :=
  let h := s.home a.va.toNat
  let c := s.chip h
  (s.setChip h { c with walks := s.walkers h ++ [a.n] }).setStatus a.n .walking

/-- One of the home's 512 walkers serves the access (R250). -/
def State.hasWalker (s : State) (a : Access) : Bool :=
  ((s.walkers (s.home a.va.toNat)).take 512).contains a.n

/-- Marks an operation of a counter complete (R315). -/
def Strand.opDone (x : Strand) (n : Nat) (fl : BitVec 5) : Strand :=
  { x with ops := x.ops.map (fun o => if o.n = n then { o with done := true, flags := o.flags ||| fl } else o) }

/-- The lane instruction at an index is done in every lane; a complete run frees its entry. -/
def Strand.completeLane (x : Strand) (run idx : Nat) : Strand :=
  let runs := x.lq.runs.map (fun (r : Run) => if r.id = run then { r with done := r.done ++ [(idx, allLanes)] } else r)
  ({ x with lq := { x.lq with runs } } : Strand).endChain run idx |>.freeRuns

/-- Writes the values that arrived for a lane instruction to its destination. -/
def Strand.writeArrived (x : Strand) (o : LaneOp) : Strand :=
  match o.dst with
  | none => x
  | some d =>
    let vals : Vector Nat 96 := lanes (fun l => match o.vals.find? (fun (p : Nat × Word64) => p.1 == l.val) with
      | some p => imageOf o.ty p.2.toNat
      | none => 0)
    { x with lf := x.lf.put d o.ty.wide (o.act &&& o.arrived &&& ~~~o.faulted) vals }

/-- Replaces an outstanding lane operation. -/
def Strand.setOp (x : Strand) (o : LaneOp) : Strand :=
  { x with lq := { x.lq with ops := x.lq.ops.map (fun p => if p.n = o.n then o else p) } }

/-- The last arrival: the destination is delivered; without a fault the instruction is complete (R266). -/
def Strand.lastArrival (x : Strand) (o : LaneOp) : Strand :=
  let x := x.writeArrived o
  if o.faulted = 0 then
    let x := { x with lq := { x.lq with ops := x.lq.ops.filter (fun p => p.n != o.n) } }
    (if o.reduce then x.opDone o.n 0 else x).completeLane o.run o.idx
  else x.setOp o

/-- A lane's access has been answered: with a value, or with a fault and its address. -/
def LaneOp.answer (o : LaneOp) (l : Nat) (v : Word64) (fault : Option (BitVec 8)) (ea : Word64) : LaneOp :=
  let bit : Mask := 1#96 <<< l
  match fault with
  | none => { o with arrived := o.arrived ||| bit, vals := o.vals ++ [(l, v)] }
  | some c =>
    let lowest := o.faulted &&& (bit - 1) == 0
    { o with arrived := o.arrived ||| bit, faulted := o.faulted ||| bit
             cause := if lowest then c else o.cause, eaddr := if lowest then ea else o.eaddr }

def Strand.arrive (x : Strand) (op l : Nat) (v : Word64) (fault : Option (BitVec 8)) (ea : Word64) : Strand :=
  match x.lq.ops.find? (fun o => o.n == op) with
  | none => x
  | some o =>
    let o := o.answer l v fault ea
    if o.act &&& ~~~o.arrived = 0 then x.lastArrival o else x.setOp o

/-- A return-free access has been performed at its point. -/
def State.completed (s : State) (a : Access) : State :=
  let s := s.dropAccess a.n
  match a.origin with
  | .scalar _ _ =>
    s.modify a.strand (fun x =>
      let x := { x with redo := x.redo.filter (fun k => k != a.n) }
      if a.kind.reduces then x.opDone a.n 0 else x)
  | .lane op l => s.modify a.strand (fun x => x.arrive op l.val 0 none a.va)

/-- The access has its value: a return-free one is complete, another waits for its reply. -/
def State.gotValue (s : State) (a : Access) (v : Word64) (line : Option (List Byte × Bool × Bool)) : State :=
  match a.kind with
  | .store => s.completed a
  | .atomic _ false => s.completed a
  | _ => { s with access := s.access.map (fun b => if b.n = a.n then { b with status := .done v, line } else b) }

/-! ## L1 (R239–R242) -/

/-- Installs a line; a core holds 768 lines, and the oldest goes. -/
def Core.fill (c : Core) (l : L1Line) : Core :=
  { c with l1 := (l :: c.l1.filter (fun k => !(k.granule == l.granule && k.asid == l.asid))).take 768 }

/-- The L1's part in a load (R240). DEDUCED, unsafe: log 30. -/
def State.l1Serve (s : State) (a : Access) : Option (State × List Byte) :=
  let c := s.core a.strand.core
  let g := a.va.toNat / 256
  if a.kind == .load && !(Pol.acquire a.pol && decide (2 ≤ Pol.scope a.pol)) then
    match c.l1.find? (fun l => l.granule == g && l.asid == a.asid && l.r && (a.sup || !l.sup)) with
    | some l =>
      let bs := slice l.data (a.va.toNat % 256) a.size
      let c := if Pol.l1 a.pol = 3 then { c with l1 := c.l1.filter (fun k => !(k.granule == g && k.asid == a.asid)) } else c
      some (s.setCore a.strand.core c, bs)
    | none => none
  else none

/-- Bytes written by a core go into its line and into fills on their way to it (R241). -/
def State.l1Write (s : State) (core : CoreId) (asid : BitVec 16) (va : Nat) (bs : List Byte) : State :=
  let g := va / 256
  let c := s.core core
  let s := s.setCore core { c with l1 := c.l1.map (fun l => if l.granule == g && l.asid == asid then { l with data := patch l.data (va % 256) bs } else l) }
  { s with access := s.access.map (fun a =>
      if a.strand.core == core && a.asid == asid && a.va.toNat / 256 == g then
        { a with line := a.line.map (fun (p : List Byte × Bool × Bool) => (patch p.1 (va % 256) bs, p.2)) } else a) }

/-- An atomic invalidates the core's line and keeps a fill on its way from being installed (R241). -/
def State.l1Kill (s : State) (core : CoreId) (asid : BitVec 16) (va : Nat) : State :=
  let g := va / 256
  let c := s.core core
  let s := s.setCore core { c with l1 := c.l1.filter (fun l => !(l.granule == g && l.asid == asid)) }
  { s with access := s.access.map (fun a =>
      if a.strand.core == core && a.asid == asid && a.va.toNat / 256 == g then { a with line := none } else a) }

/-- Every line of a core tagged with an ASID goes, and fills on their way are not installed (R242). -/
def State.l1Invalidate (s : State) (core : CoreId) (asid : BitVec 16) : State :=
  let c := s.core core
  (s.setCore core { c with l1 := c.l1.filter (fun l => l.asid != asid) }).dropFills (fun a => a.strand.core == core && a.asid == asid)

/-- Fills of a granule on their way to a core take what the home has just answered: none of them brings older data than the core has had. -/
def State.refreshFills (s : State) (core : CoreId) (asid : BitVec 16) (granule : Nat) (data : List Byte) : State :=
  { s with access := s.access.map (fun a =>
      if a.strand.core == core && a.asid == asid && a.va.toNat / 256 == granule then
        { a with line := a.line.map (fun (p : List Byte × Bool × Bool) => (data, p.2)) } else a) }

/-! ## Stores on their way to the home (R241) -/

/-- A store of the core that its L1 has taken and its home has not performed. -/
def Access.onItsWay (b : Access) (core : CoreId) (asid : BitVec 16) : Bool :=
  b.sent && b.strand.core == core && b.asid == asid && !b.isFaulted

/-- An earlier store of the same core to the same bytes is on its way to the home: what the core sends after it comes after it there, so
that the core sees these bytes in their coherence order (R301, R302). DEDUCED, unsafe: log 89. -/
def State.pathHeld (s : State) (a : Access) : Bool :=
  s.access.any (fun b => b.n != a.n && b.onItsWay a.strand.core a.asid && b.overlaps a && (!a.sent || decide (b.n < a.n)))

/-- No store of the core to these bytes is on its way: an engine of the core may access them. -/
def State.pathClear (s : State) (core : CoreId) (asid : BitVec 16) (va n : Nat) : Bool :=
  !s.access.any (fun b => b.onItsWay core asid && decide (b.va.toNat < va + n) && decide (va < b.va.toNat + b.size))

/-- A granule's data with the bytes that the core has on their way to its home, in the order of the writes: what a fill brings to the L1 (R241). -/
def State.withSent (s : State) (core : CoreId) (asid : BitVec 16) (granule : Nat) (data : List Byte) : List Byte :=
  (s.access.filter (fun b => b.onItsWay core asid && b.va.toNat / 256 == granule)).foldl
    (fun d b => patch d (b.va.toNat % 256) (leBytes b.size b.data.toNat)) data

/-- A relaxed store that nothing holds back leaves its core, and the core's L1 takes its bytes (R241). A store with release order leaves when
every access that it orders before itself is performed (R305). -/
def State.sendStore (s : State) (x : Strand) (a : Access) : State :=
  if a.kind == .store && a.space == 0 && !aperture a.va && !Pol.release a.pol && s.mayPerform x a then
    let t := s.l1Write a.strand.core a.asid a.va.toNat (leBytes a.size a.data.toNat)
    { t with access := t.access.map (fun b => if b.n = a.n then { b with sent := true } else b) }
  else s

/-! ## The gang atomic unit (R286–R288) -/

def GauLine.is (l : GauLine) (g : GangId) (granule : Nat) (asid : BitVec 16) : Bool := l.gang == g && l.granule == granule && l.asid == asid

/-- A gang with a crew on the core has a GAU line of the granule. A fill from the home would bring the core data older than its own strands may have
read there (R240, R288, R302). -/
def State.gauGuards (s : State) (core : CoreId) (granule : Nat) (asid : BitVec 16) : Bool :=
  (s.gauOf core.die).any (fun l => l.granule == granule && l.asid == asid && s.crews.any (fun c => c.gang == l.gang && c.core == core))

/-- A line becomes the most recently used of its die (R286). -/
def State.gauTouch (s : State) (die : Fin 8) (gang : GangId) (granule : Nat) (asid : BitVec 16) : State :=
  let ls := s.gauOf die
  s.setGau die (ls.filter (fun l => l.is gang granule asid) ++ ls.filter (fun l => !l.is gang granule asid))

/-- A write of the gang's cores updates the gang's line without changing its dirty mask (R288). -/
def State.gauWrite (s : State) (die : Fin 8) (gang : GangId) (asid : BitVec 16) (va : Nat) (bs : List Byte) : State :=
  (s.setGau die ((s.gauOf die).map (fun l => if l.is gang (va / 256) asid then { l with data := patch l.data (va % 256) bs } else l))).gauTouch
    die gang (va / 256) asid

/-- A release at gang scope or wider writes the gang's dirty bytes back (R287). -/
def State.releaseAt (s : State) (die : Fin 8) (gang : GangId) (scope : Nat) : State :=
  if 2 ≤ scope then s.gauWriteBack die false (fun l => l.gang == gang) else s

/-- An acquire at gang scope or wider invalidates the L1; at device or system scope also the gang's GAU lines (R242, R287). -/
def State.acquireAt (s : State) (core : CoreId) (gang : GangId) (asid : BitVec 16) (scope : Nat) : State :=
  let s := if 3 ≤ scope then s.gauWriteBack core.die true (fun l => l.gang == gang) else s
  if 2 ≤ scope then s.l1Invalidate core asid else s

/-- Installs a GAU line; a die holds 256, and the least recently used is written back first. -/
def State.gauInstall (s : State) (die : Fin 8) (l : GauLine) : State :=
  let ls := s.gauOf die
  let s := if 256 ≤ ls.length then
      match ls.getLast? with
      | some v => s.gauWriteBack die true (fun k => k.is v.gang v.granule v.asid)
      | none => s
    else s
  s.setGau die (l :: s.gauOf die)

/-! ## Atomic operations (R290) -/

/-- The new value at the target for a scalar operation code, on N-bit words. -/
def newValue (op : BitVec 4) (size m b : Nat) : Nat :=
  let n := 8 * size
  let mod := 2 ^ n
  let int (v : Nat) : Int := if v % mod < 2 ^ (n - 1) then ((v % mod : Nat) : Int) else ((v % mod : Nat) : Int) - ((mod : Nat) : Int)
  let f : Arith.Fmt := if size = 8 then Arith.f64 else Arith.f32
  let b := b % mod
  match op.toNat with
  | 0 => b
  | 1 => (m + b) % mod
  | 2 => m &&& b
  | 3 => m ||| b
  | 4 => m ^^^ b
  | 5 => if int b < int m then b else m
  | 6 => if int m < int b then b else m
  | 7 => min m b
  | 8 => max m b
  | 9 => (Arith.add f Arith.nearest (f.val m) (f.val b)).1
  | 10 => (Arith.minMax f false m b).1
  | _ => (Arith.minMax f true m b).1

/-- The update an access makes to its target bytes; nothing for a read or a failed compare. -/
def Access.update (a : Access) (old : List Byte) : Option (List Byte) :=
  match a.kind with
  | .store => some (leBytes a.size a.data.toNat)
  | .atomic op _ => some (leBytes a.size (newValue op a.size (ofLe old) a.data.toNat))
  | .cas => if ofLe old = a.cmp.toNat % 2 ^ (8 * a.size) then some (leBytes a.size a.data.toNat) else none
  | _ => none

/-- The rights of its page that an access needs (R254); a return-free reduction needs w only. DEDUCED, unsafe: log 73. -/
def Access.need (a : Access) : Need :=
  match a.kind with
  | .load | .prefetch _ => needRead
  | .store | .atomic _ false => needWrite
  | _ => needBoth

/-! ## The interposer's paths (R487–R491) -/

def State.pair (s : State) (i j : Nat) : Pair := Table.get s.pairs (i, j) .reset
def State.setPair (s : State) (i j : Nat) (p : Pair) : State := { s with pairs := Table.put s.pairs (i, j) p }

def prrMode (w : Word64) : Nat := wordBits w 1 0
def prrVia (w : Word64) : Nat := wordBits w 12 8

/-- A pair's own flits may use a colour: it is not lost, and the mode allows it. -/
def Pair.colourOk (p : Pair) (colour : Bool) : Bool :=
  !p.prr.getLsbD (if colour then 31 else 30) && (match prrMode p.prr with | 1 => !colour | 2 => colour | _ => true)
def Pair.lit (p : Pair) : Bool := p.colourOk false || p.colourOk true

/-- Both colours are lost. -/
def Pair.dark (p : Pair) : Bool := p.prr.getLsbD 31 && p.prr.getLsbD 30

/-- The pair's flits are on a relay path: that of the register, and while the pair is stopped the old one. -/
def Pair.onRelay (p : Pair) : Bool := (prrMode p.prr == 3) != p.stopped

/-- A direct path with both colours lost carries nothing (R491). -/
def Pair.cutOff (p : Pair) : Bool := p.dark && !p.onRelay

/-- New flits of a pair can go: it is not stopped, and its path, direct or over two legs, has a colour (R490, R491). -/
def State.carries (s : State) (i j : Nat) : Bool :=
  let p := s.pair i j
  !p.stopped && (if prrMode p.prr = 3 then (s.pair i (prrVia p.prr)).lit && (s.pair (prrVia p.prr) j).lit else p.lit)

/-- Requests of a die reach an endpoint and its replies come back; an access waits for both (R491, R508). DEDUCED, unsafe: log 64. -/
def State.reaches (s : State) (die : Fin 8) (e : Nat) : Bool := s.carries die.val e && s.carries e die.val
def State.reachesHome (s : State) (die : Fin 8) (va : Nat) : Bool := s.reaches die (8 + s.home va)

/-! ## Performing a global access -/

/-- What the home answered, as a status of the access. The bytes of a store that faults leave the core's L1 again: they stand in no coherence
order (R301). DEDUCED, unsafe: log 89. -/
def State.homeStatus (s : State) (a : Access) (o : HomeOut) : State :=
  match o with
  | .miss => s.startWalk a
  | .revive => s.setStatus a.n .reviving
  | .host true => s
  | .host false => s.setStatus a.n .host
  | .fault c =>
    let s := if a.sent then s.l1Kill a.strand.core a.asid a.va.toNat else s
    s.setStatus a.n (.faulted c)
  | .done _ _ _ _ => s

/-- The strand has read bytes that are on their way to their home: an acquire fence that makes the read an acquire waits for them (R307).
DEDUCED, unsafe: log 89. -/
def State.noteSeen (s : State) (a : Access) : State :=
  let ns := (s.access.filter (fun b => b.onItsWay a.strand.core a.asid && b.strand != a.strand && b.overlaps a)).map (fun b => b.n)
  if ns.isEmpty then s
  else s.modify a.strand (fun x => { x with seen := ns ++ x.seen.filter (fun n => s.access.any (fun b => b.n == n)) })

/-- A load served from the gang's GAU line, which fills no L1 line (R288). -/
def State.gauServe (s : State) (a : Access) (l : GauLine) : State :=
  let s := (s.gauTouch a.strand.core.die l.gang l.granule l.asid).dropFills
    (fun b => b.strand.core == a.strand.core && b.asid == a.asid && b.va.toNat / 256 == l.granule)
  s.gotValue a (BitVec.ofNat 64 (ofLe (slice l.data (a.va.toNat % 256) a.size))) none

/-- A load that the L1 does not serve: the gang's GAU line, or the home (R232, R240, R288). It fills no L1 line while another gang on the core has
a GAU line of the granule. DEDUCED, unsafe: log 102. -/
def State.loadBeyond (s : State) (a : Access) : State :=
  let core := a.strand.core
  let va := a.va.toNat
  if s.pathHeld a then s
  else match (s.gauOf core.die).find? (fun l => l.is a.gang (va / 256) a.asid) with
    | some l => s.gauServe a l
    | none =>
      if !s.reachesHome core.die va then s
      else
      match s.homeApply false va a.asid needRead a.sup a.pol a.size (fun _ => none) with
      | (s, .done old [] _ _) => s.gotValue a (BitVec.ofNat 64 (ofLe old)) none
      | (s, .done old data r sup) =>
        let line := s.withSent core a.asid (va / 256) data
        (s.refreshFills core a.asid (va / 256) line).gotValue a (BitVec.ofNat 64 (ofLe old)) (if Pol.l1 a.pol = 0 && !s.gauGuards core (va / 256) a.asid then some (line, r, sup) else none)
      | (s, o) => s.homeStatus a o

/-- A load or store performed where it is served: L1, the gang's GAU line, or the home (R232, R240, R241, R288). An acquire is served no bytes that are
on their way. -/
def State.performPlain (s : State) (a : Access) : State :=
  let core := a.strand.core
  let va := a.va.toNat
  match a.kind with
  | .load =>
    if Pol.acquire a.pol && s.pathHeld a then s
    else
      let s := if Pol.acquire a.pol then s.acquireAt core a.gang a.asid (Pol.scope a.pol) else s
      match s.l1Serve a with
      | some (s, bs) => (s.noteSeen a).gotValue a (BitVec.ofNat 64 (ofLe bs)) none
      | none => s.loadBeyond a
  | _ =>
    if s.pathHeld a || !s.reachesHome core.die va then s
    else
      let s := if Pol.release a.pol then s.releaseAt core.die a.gang (Pol.scope a.pol) else s
      let bs := leBytes a.size a.data.toNat
      match s.homeApply false va a.asid needWrite a.sup a.pol a.size (fun _ => some bs) with
      | (s, .done _ _ _ _) =>
        let s := if a.sent then s else s.l1Write core a.asid va bs
        (s.gauWrite core.die a.gang a.asid va bs).gotValue a 0 none
      | (s, o) => s.homeStatus a o

/-- Order effects of an atomic: release before it, acquire with it. -/
def State.atomicOrder (s : State) (a : Access) : State :=
  let core := a.strand.core
  let s := if Pol.release a.pol then s.releaseAt core.die a.gang (Pol.scope a.pol) else s
  if Pol.acquire a.pol then s.acquireAt core a.gang a.asid (Pol.scope a.pol) else s

/-- An atomic at the home or, on a host-leaf page, at the host die (R284, R287). -/
def State.performHomeAtomic (s : State) (a : Access) : State :=
  let core := a.strand.core
  let va := a.va.toNat
  if s.pathHeld a || !s.reachesHome core.die va then s
  else
    let s := (s.gauWriteBack core.die true (fun l => l.is a.gang (va / 256) a.asid)).atomicOrder a
    match s.homeApply false va a.asid a.need a.sup a.pol a.size a.update with
    | (s, .done old _ _ _) => (s.l1Kill core a.asid va).gotValue a (BitVec.ofNat 64 (ofLe old)) none
    | (s, o) => s.homeStatus a o

/-- An atomic in a GAU line the gang holds: the target bytes become dirty. -/
def State.gauUpdate (s : State) (a : Access) (l : GauLine) : State :=
  let core := a.strand.core
  let off := a.va.toNat % 256
  let old := slice l.data off a.size
  let l' := match a.update old with
    | some new => { l with data := patch l.data off new, dirty := l.dirty.mapIdx (fun i b => b || (decide (off ≤ i) && decide (i < off + a.size))) }
    | none => l
  let rest := (s.gauOf core.die).filter (fun k => !k.is l.gang l.granule l.asid)
  ((s.setGau core.die (l' :: rest)).l1Kill core a.asid a.va.toNat).gotValue a (BitVec.ofNat 64 (ofLe old)) none

/-- What the page must allow to an atomic that fills a GAU line: the fill is a read of the granule (R254, R286). -/
def Access.fillNeed (a : Access) : Need := { a.need with r := true }

/-- An atomic of strand, crew or gang scope on a granule that the gang does not hold: the line is filled from the home; on a host-leaf page
the atomic is performed at the host die (R284, R286). -/
def State.gauFill (s : State) (a : Access) : State :=
  let core := a.strand.core
  let va := a.va.toNat
  let need := if (s.cachedLeaf (s.home va) a.asid va).any Leaf.isHost then a.need else a.fillNeed
  match s.homeApply false va a.asid need a.sup 0 1 (fun _ => none) with
  | (s, .done _ [] _ _) =>
    match s.homeApply false va a.asid a.need a.sup 0 a.size a.update with
    | (s, .done old _ _ _) => (s.l1Kill core a.asid va).gotValue a (BitVec.ofNat 64 (ofLe old)) none
    | (s, o) => s.homeStatus a o
  | (s, .done _ data _ _) =>
    let l : GauLine := ⟨a.gang, va / 256, a.asid, data, List.replicate 256 false⟩
    (s.gauInstall core.die l).gauUpdate a l
  | (s, o) => s.homeStatus a o

/-- An atomic of strand, crew or gang scope: at the GAU, or at the host die (R284, R286). -/
def State.performGauAtomic (s : State) (a : Access) : State :=
  let core := a.strand.core
  let held : Bool := (s.gauOf core.die).any (fun l => l.is a.gang (a.va.toNat / 256) a.asid)
  if s.pathHeld a || (!held && !s.reachesHome core.die a.va.toNat) then s
  else
    let s := s.atomicOrder a
    match (s.gauOf core.die).find? (fun l => l.is a.gang (a.va.toNat / 256) a.asid) with
    | some l => s.gauUpdate a l
    | none => s.gauFill a

/-- A local access at the bank that owns the bytes: own region, or a peer's G (R236, R238, R284). -/
def State.performBank (s : State) (a : Access) : State :=
  let peer := if a.space = 6 then wordBits a.va 23 18 else
    match s.strand a.strand with | some x => x.who.peer | none => 0
  let off := if a.space = 6 then wordBits a.va 17 0 else a.va.toNat
  let sp := if a.space = 6 then 1 else a.space.toNat
  match s.crewOf a.gang peer with
  | none => s
  | some c =>
    if s.wakingAt c sp off a.size then s
    else
    let old := c.load sp off a.size
    let s := if Pol.release a.pol then s.releaseAt a.strand.core.die a.gang (Pol.scope a.pol) else s
    let s := if Pol.acquire a.pol then s.acquireAt a.strand.core a.gang a.asid (Pol.scope a.pol) else s
    let s := match a.update old with
      | some new => s.modifyCrew a.gang peer (fun c => c.store sp off new)
      | none => s
    s.gotValue a (BitVec.ofNat 64 (ofLe old)) none

/-- The access with a number, when it waits to be performed and nothing holds it back. -/
def State.ready (s : State) (n : Nat) : Option Access :=
  match s.access.find? (fun a => a.n == n && a.status == .issued) with
  | none => none
  | some a => match s.strand a.strand with
    | some x => if s.mayPerform x a then some a else none
    | none => some a

/-! ## Replies (R103, R266, R267) -/

/-- The value that a scalar register takes of n bytes, sign- or zero-extended (R103, R291, R292). -/
def extendLoad (sign : Bool) (n : Nat) (v : Word64) : Word64 :=
  let ext {w : Nat} (b : BitVec w) : Word64 := if sign then b.signExtend 64 else b.setWidth 64
  match n with
  | 1 => ext (v.extractLsb' 0 8)
  | 2 => ext (v.extractLsb' 0 16)
  | 4 => ext (v.extractLsb' 0 32)
  | _ => v

/-- A fill that arrives with a reply is installed in the core's L1 (R240). -/
def State.installFill (s : State) (a : Access) : State :=
  match a.line with
  | some (data, r, sup) =>
    s.setCore a.strand.core ((s.core a.strand.core).fill { granule := a.va.toNat / 256, asid := a.asid, data, r, sup })
  | none => s

/-- A strand whose awaited register has arrived is no longer waiting. -/
def Strand.wakeLoad (x : Strand) : Strand :=
  if x.sch.wait = .load then { x with sch := { x.sch with wait := .none } } else x

/-- The reply of a scalar access: the register is written and no longer pending. -/
def State.replyScalar (s : State) (a : Access) (d : Reg) (sign : Bool) (v : Word64) : State :=
  let s := (s.installFill a).dropAccess a.n
  s.modify a.strand (fun x =>
    let x := { x.unmark (.reply a.n) with redo := x.redo.filter (fun k => k != a.n) }
    (x.setReg s.nextId d (extendLoad sign a.size v)).wakeLoad)

/-- Where the replies of an access are gathered: its home, or 16 for the fabric. -/
def State.replyFrom (s : State) (a : Access) : Nat := if aperture a.va then 16 else s.home a.va.toNat

/-- The lane instruction of an access has had the access's answer. -/
def Strand.told (x : Strand) (a : Access) : Bool :=
  match a.origin with
  | .lane op l => x.lq.ops.any (fun o => o.n == op && o.arrived.getLsbD l.val)
  | .scalar _ _ => false

/-- One answered lane access leaves the waiting table. One that faulted, of a load, a store or an atomic, tells its lane instruction so once and
stays until its trap, and what the ordering rules hold behind it is not performed (R302, R305, R459, R464). -/
def State.replyLane (s : State) (a : Access) : State :=
  match a.origin, a.status with
  | .lane op l, .done v => ((s.installFill a).dropAccess a.n).modify a.strand (fun x => x.arrive op l.val v none a.va)
  | .lane op l, .faulted c =>
    if (s.strand a.strand).any (fun x => x.told a) then s
    else
      ({ s with access := s.access.map (fun b => if b.n = a.n then { b with entry := false } else b) } : State).modify a.strand
        (fun x => x.arrive op l.val 0 (some c) a.va)
  | _, _ => s

/-! ## The export window (R509–R512) -/

/-- The route to a device is valid: its entry, the own device identity, a live fabric die, no reserved port, and a group only on an optical
port (R510, R512, R524). -/
def State.routeOk (s : State) (dev : Nat) : Bool :=
  let r := Table.get s.host.peerrt dev 0
  r.getLsbD 63 && s.ddb.devValid && s.ddb.fabrics.contains (wordBits r 1 0) && decide (wordBits r 5 3 < 6) &&
    (wordBits r 15 8 == 0 || decide (4 ≤ wordBits r 5 3))

/-- Records an error reply (R512). -/
def State.peerError (s : State) (cause dev off : Nat) : State :=
  let s := s.countEvent 28 5
  { s with host := { s.host with peererr := BitVec.ofNat 64 (2 ^ 63 + cause * 2 ^ 56 + dev * 2 ^ 32 + off % 2 ^ 32) } }

/-- A request at the export window of this device, in user mode (R511): its bytes, or the cause of R512; none while it waits for a walker, for the
host's translation or for a bias flip (R250, R529, R532). -/
def State.exported (s : State) (off : Nat) (need : Need) (n : Nat) (upd : List Byte → Option (List Byte)) :
    State × Option (Except Nat (List Byte)) :=
  let va := (s.host.expBase.toNat + off) % 2 ^ 64
  if s.host.expLen.toNat ≤ off then (s, some (.error 4))
  else
    match s.homeFull va s.host.expAsid need false 0 n upd with
    | (s, .done old _ _ _) => (s, some (.ok old))
    | (s, .fault c) => (s, some (.error (if c = pageFault then 2 else 3)))
    | (s, .host false) =>
      (match s.askHostFor ⟨⟨0, 0, 0⟩, 0⟩ processors s.host.expAsid va false need with
       | (s, some _) => (s, some (.error 2))
       | (s, none) => (s, none))
    | (s, _) => (s, none)

/-! ## Sending on a fabric port (R517, R518, R522, R525, R535) -/

/-- A lane's health register and laser state. -/
def FabricPort.lane (q : FabricPort) (i : Nat) : LaneHealth := Table.get q.lanes i .reset

/-- The port may send: it is up and not retraining, and no used optical lane is in STANDBY or OFF (R518, R525). -/
def FabricPort.up (q : FabricPort) (p : PortId) : Bool :=
  !q.down && !q.training && (!isOptical p || (List.range 32).all (fun i => !q.inUse.getLsbD i || (q.lane i).las == 2))

/-- A flit of the replay buffer waits to be sent again. -/
def FabricPort.replaying (q : FabricPort) : Bool := q.tx.waiting.any (fun f => match f.body with | .replay _ => true | _ => false)

/-- The flit takes a sequence number when it is sent. -/
def numbered (f : TxFlit) : Bool := match f.body with | .request _ _ _ _ | .reply _ _ _ | .payload _ => true | _ => false

/-- A flit may go: one that takes a sequence number waits for room in the replay buffer, for a running replay and for a posted change of width
(R517, R522, R536). -/
def FabricPort.may (q : FabricPort) (f : TxFlit) : Bool := !numbered f || (!q.req && !q.replaying && decide (q.replay.length < 1024))

/-- What goes on the line for a flit: at the port's width, a marker at the width it was first sent at; nothing for a replay or a marker that has been
acknowledged meanwhile (R517, R522). -/
def FabricPort.onLine (q : FabricPort) (f : TxFlit) : Option SentFlit :=
  match f.body with
  | .replay n => (q.replay.find? (fun e => e.1 == n)).map (fun e => ⟨n, q.cur, q.inUse, e.2.1⟩)
  | .marker wc mask => (q.markers.find? (fun m => m.wc == wc && m.mask == mask)).map (fun m => ⟨0, m.oldWc, m.oldMask, f⟩)
  | .ack _ | .ask _ => some ⟨0, q.cur, q.inUse, f⟩
  | _ => some ⟨q.txSeq, q.cur, q.inUse, f⟩

/-- A flit goes on the line. One that takes a sequence number stays in the replay buffer until each linked device it is for has acknowledged it
(R517, R520). -/
def FabricPort.put (q : FabricPort) (p : PortId) (f : TxFlit) : FabricPort :=
  match q.onLine f with
  | none => q
  | some c =>
    let q := { q with line := q.line ++ [c], fload := q.fload + 1 }
    let readers := q.receivers p f.dest
    if !numbered f then q
    else { q with txSeq := (q.txSeq + 1) % 65536, replay := if readers.isEmpty then q.replay else q.replay ++ [(q.txSeq, f, readers)] }

/-- Sends the flits that wait at a port while it may, each chosen by R535, with fuel. -/
def State.pumpN (p : PortId) : Nat → State → State
  | 0, s => s
  | n + 1, s =>
    let q := s.port p
    if !q.up p then s
    else match q.tx.send q.may with
      | none => s
      | some (f, tx) =>
        let sent := if (q.onLine f).isSome then 1 else 0
        let again := match f.body with | .replay _ => sent | _ => 0
        State.pumpN p n (((s.setPort p { q.put p f with tx }).countEvents (24 + p.die.val) 2 sent).countEvents (24 + p.die.val) 3 again)

def State.pump (s : State) (p : PortId) : State := State.pumpN p (s.port p).tx.waiting.length s

/-- Flits come to a port's transmitter. -/
def State.sendFlits (s : State) (p : PortId) (fs : List TxFlit) : State := (s.setPort p { s.port p with tx := (s.port p).tx.offer fs }).pump p

/-- What an access asks of its peer. -/
def Access.fabricOp (a : Access) : FabricOp :=
  match a.kind with
  | .store => .store (leBytes a.size a.data.toNat)
  | .atomic op ret => .atomic op ret a.data
  | .cas => .cas a.cmp a.data
  | _ => .load

/-- The flit that asks for an access. -/
def State.requestFlit (s : State) (a : Access) (op : FabricOp) : TxFlit :=
  { cls := .request, source := a.strand.core.die.val * 32 + a.strand.core.y.val * 8 + a.strand.core.x.val, dest := s.peerDest a
    body := .request a.n (peerOffset a.va) a.size op }

/-- A request goes to the port of a peer device's route: a store on a route with a group is sent once, and is complete when every member that the
port is linked to has performed it (R524). Where the port is down or busy it waits there, until it is sent or times out (R512, R518).
DESIGN CHOICE, unsafe: log 69. -/
def State.sendRequest (s : State) (a : Access) : State :=
  let s := s.sendFlits (s.routePort (peerDevice a.va)) [s.requestFlit a a.fabricOp]
  let members := (s.peerTargets a).length
  if members = 0 then s.gotValue a 0 none
  else { s with access := s.access.map (fun b =>
    if b.n = a.n then { b with status := .peer, cmp := if a.kind == .store then BitVec.ofNat 64 members else b.cmp } else b) }

/-- An access to the peer aperture leaves its core: without a valid route, or at this device's own window, it is answered at once; else it
waits for its peer (R511–R514). -/
def State.performAperture (s : State) (a : Access) : State :=
  let dev := peerDevice a.va
  let off := peerOffset a.va
  if !s.routeOk dev then (s.peerError 0 dev off).setStatus a.n (.faulted pageFault)
  else if !s.reaches a.strand.core.die (24 + (s.routePort dev).die.val) then s
  else
    let s := if Pol.release a.pol then s.releaseAt a.strand.core.die a.gang (Pol.scope a.pol) else s
    if dev = s.ddb.devId.toNat then
      let s := if Pol.acquire a.pol then s.acquireAt a.strand.core a.gang a.asid (Pol.scope a.pol) else s
      match s.exported off a.need a.size a.update with
      | (s, some (.ok old)) => s.gotValue a (BitVec.ofNat 64 (ofLe old)) none
      | (s, some (.error c)) => (s.peerError c dev off).setStatus a.n (.faulted pageFault)
      | (s, none) => s
    else s.sendRequest a

end Sys2Proof.Machine
end

