-- ==== Sys2Proof/Machine/LaneFloat.lean ====
section
/-! DEFINITION. Meanings of the floating-point lane instructions (R115–R118) and of the bounded-error forms (R135–R138, R405). -/

namespace Sys2Proof.Machine

open Arith (Fmt Val Res Rounding)

/-! ## Floating point (R115–R118) -/

/-- The format of a float type. -/
def fmt (t : Ty) : Fmt := (Arith.fmtOf t).getD Arith.f32

/-- A one-operand operation on values, as an element operation. -/
def fp1 (t : Ty) (op : Fmt → Rounding → Val → Res) : Elt := fun r a _ _ => op (fmt t) r ((fmt t).val a)
/-- A two-operand operation on values. -/
def fp2 (t : Ty) (op : Fmt → Rounding → Val → Val → Res) : Elt := fun r a b _ => op (fmt t) r ((fmt t).val a) ((fmt t).val b)
/-- a × b + c. -/
def fpFma (t : Ty) : Elt := fun r a b c => Arith.fma (fmt t) r ((fmt t).val a) ((fmt t).val b) ((fmt t).val c)
/-- The smaller or larger operand (R116). -/
def fpMinMax (t : Ty) (larger : Bool) : Elt := fun _ a b _ => Arith.minMax (fmt t) larger a b
/-- The sign bit cleared (R117). -/
def fpAbs (t : Ty) : Elt := fun _ a _ _ => (a % 2 ^ (t.width - 1), 0)
/-- The sign bit inverted (R117). -/
def fpNeg (t : Ty) : Elt := fun _ a _ _ => (a ^^^ 2 ^ (t.width - 1), 0)
/-- Rounded to an integral value (R118). -/
def fpRnd (t : Ty) : Elt := fun r a _ _ => Arith.roundIntegral (fmt t) r a

/-- `vadd`: a + b (R115). -/
def execVadd (f : LaneFields) (s : State) : Out := .next (s.packable (.vadd f) f (fp2 f.ty Arith.add))

/-- `vsub`: a − b (R115). -/
def execVsub (f : LaneFields) (s : State) : Out := .next (s.packable (.vsub f) f (fp2 f.ty Arith.sub))

/-- `vmul`: a × b (R115). -/
def execVmul (f : LaneFields) (s : State) : Out := .next (s.packable (.vmul f) f (fp2 f.ty Arith.mul))

/-- `vfma`: a × b + c with one rounding (R69, R115). -/
def execVfma (f : LaneFields) (s : State) : Out := .next (s.packable (.vfma f) f (fpFma f.ty))

/-- `vmin`: the smaller operand (R116). -/
def execVmin (f : LaneFields) (s : State) : Out := .next (s.packable (.vmin f) f (fpMinMax f.ty false))

/-- `vmax`: the larger operand (R116). -/
def execVmax (f : LaneFields) (s : State) : Out := .next (s.packable (.vmax f) f (fpMinMax f.ty true))

/-- `vabs`: the sign bit cleared (R117). -/
def execVabs (f : LaneFields) (s : State) : Out := .next (s.packable (.vabs f) f (fpAbs f.ty))

/-- `vneg`: the sign bit inverted (R117). -/
def execVneg (f : LaneFields) (s : State) : Out := .next (s.packable (.vneg f) f (fpNeg f.ty))

/-- `vdiv`: a / b (R71, R118). -/
def execVdiv (f : LaneFields) (s : State) : Out := .next (s.elementwise (.vdiv f) f f.ty f.ty f.ty f.ty (fp2 f.ty Arith.div))

/-- `vsqrt`: √a (R71). -/
def execVsqrt (f : LaneFields) (s : State) : Out := .next (s.elementwise (.vsqrt f) f f.ty f.ty f.ty f.ty (fp1 f.ty Arith.sqrt))

/-- `vrcp`: 1 / a (R71). -/
def execVrcp (f : LaneFields) (s : State) : Out := .next (s.elementwise (.vrcp f) f f.ty f.ty f.ty f.ty (fp1 f.ty Arith.rcp))

/-- `vrsq`: 1 / √a (R71). -/
def execVrsq (f : LaneFields) (s : State) : Out := .next (s.elementwise (.vrsq f) f f.ty f.ty f.ty f.ty (fp1 f.ty Arith.rsq))

/-- `vexp2`: 2^a (R71). -/
def execVexp2 (f : LaneFields) (s : State) : Out := .next (s.elementwise (.vexp2 f) f f.ty f.ty f.ty f.ty (fp1 f.ty Arith.exp2))

/-- `vlog2`: log₂ a (R71). -/
def execVlog2 (f : LaneFields) (s : State) : Out := .next (s.elementwise (.vlog2 f) f f.ty f.ty f.ty f.ty (fp1 f.ty Arith.log2))

/-- `vrnd`: a rounded to an integral value (R118). -/
def execVrnd (f : LaneFields) (s : State) : Out := .next (s.elementwise (.vrnd f) f f.ty f.ty f.ty f.ty (fpRnd f.ty))

/-! ## Bounded-error forms (R135, R136, R405) -/

/-- The bound a source carries: its companion when it is tagged, else 0. -/
def Strand.bound (x : Strand) (o : Opnd) (l : Lane) : Val :=
  match o with
  | .v n => if x.lf.tagged n.val then Arith.f32.val (x.lf.v[n + 1][l]).toNat else .fin false 0 0
  | _ => .fin false 0 0

/-- The value a source of a bounded form supplies, as a binary32. -/
def Strand.single (x : Strand) (f : LaneFields) (o : Opnd) (l : Lane) : Nat := x.elem f .f32 o l

/-- The pattern of a bound: the overrides of R405, then the exact value rounded up. `inf` marks a saturated conversion. R57 and R405 give no case to a
companion that holds minus infinity, as a lane that was inactive when its register was tagged may: it counts as an exact 0. DESIGN CHOICE, unsafe:
log 111. -/
def boundCode (bounds : List Val) (v : Val) (inf : Bool) (exact : Arith.Dyadic) : Nat :=
  if bounds.any Val.isNan || v.isNan then Arith.f32.defaultNan
  else if v.isInf || inf || bounds.any (fun b => b == .inf false) then Arith.f32.infCode
  else Arith.roundUpF32 exact

/-- The larger of two exact numbers. -/
def dyadicMax (a b : Arith.Dyadic) : Arith.Dyadic := if a.le b then b else a

/-- ulp of a binary32 value. -/
def ulp32 (v : Val) : Arith.Dyadic := Arith.ulp (-126) 23 v

/-- A bounded form: value, flags and bound per lane; the tag of vd is set even when no lane is active (R136). -/
def State.bounded (s : State) (i : Instr) (f : LaneFields) (sources : List Opnd) (op : Strand → Lane → Res × Nat) : State :=
  if !i.wellFormed then s.laneTrap undefinedCause 0 (s.me.active f.sel)
  else if !sources.any s.me.lf.isTagged then s.laneTrap typeCause 0 (s.me.active f.sel)
  else
    let rs : Vector (Res × Nat) 96 := lanes (op s.me)
    let y := s.me.finishLanes f true 0 (rs.map (fun (r : Res × Nat) => (r.1.1 + 2 ^ 32 * r.2, r.1.2)))
    { s with me := { y with lf := y.lf.setTag (match f.dst with | .v n => n.val | _ => 128) true } }

/-- `vadd.be` (R136, R405). -/
def execVaddBe (f : LaneFields) (s : State) : Out :=
  .next (s.bounded (.vaddBe f) f [f.a, f.b] (fun x l =>
    let r := fp2 .f32 Arith.add (x.rounding f 0 l) (x.single f f.a l) (x.single f f.b l) 0
    let ea := x.bound f.a l
    let eb := x.bound f.b l
    let v := Arith.f32.val r.1
    (r, boundCode [ea, eb] v false ((ea.dyadic.add eb.dyadic).add (ulp32 v)))))

/-- |a| × eb + |b| × ea + ea × eb. -/
def productBound (a b ea eb : Val) : Arith.Dyadic :=
  ((a.dyadic.abs.mul eb.dyadic).add (b.dyadic.abs.mul ea.dyadic)).add (ea.dyadic.mul eb.dyadic)

/-- `vmul.be` (R136, R405). -/
def execVmulBe (f : LaneFields) (s : State) : Out :=
  .next (s.bounded (.vmulBe f) f [f.a, f.b] (fun x l =>
    let a := x.single f f.a l
    let b := x.single f f.b l
    let r := fp2 .f32 Arith.mul (x.rounding f 0 l) a b 0
    let ea := x.bound f.a l
    let eb := x.bound f.b l
    let v := Arith.f32.val r.1
    (r, boundCode [ea, eb] v false ((productBound (Arith.f32.val a) (Arith.f32.val b) ea eb).add (ulp32 v)))))

/-- `vfma.be` (R136, R405). -/
def execVfmaBe (f : LaneFields) (s : State) : Out :=
  let oc : Opnd := f.c.getD .zero
  .next (s.bounded (.vfmaBe f) f [f.a, f.b, oc] (fun x l =>
    let a := x.single f f.a l
    let b := x.single f f.b l
    let r := fpFma .f32 (x.rounding f 0 l) a b (x.single f oc l)
    let ea := x.bound f.a l
    let eb := x.bound f.b l
    let ec := x.bound oc l
    let v := Arith.f32.val r.1
    (r, boundCode [ea, eb, ec] v false
      (((productBound (Arith.f32.val a) (Arith.f32.val b) ea eb).add ec.dyadic).add (ulp32 v)))))

/-- `vmax.be` (R116, R136, R405). -/
def execVmaxBe (f : LaneFields) (s : State) : Out :=
  .next (s.bounded (.vmaxBe f) f [f.a, f.b] (fun x l =>
    let r := fpMinMax .f32 true (x.rounding f 0 l) (x.single f f.a l) (x.single f f.b l) 0
    let ea := x.bound f.a l
    let eb := x.bound f.b l
    (r, boundCode [ea, eb] (Arith.f32.val r.1) false (dyadicMax ea.dyadic eb.dyadic))))

/-- `vcvt.be`: the value rounded to D and written in binary32 layout (R136, R405). -/
def execVcvtBe (f : LaneFields) (s : State) : Out :=
  .next (s.bounded (.vcvtBe f) f [f.a] (fun x l =>
    let d := fmt f.ty
    let n := Arith.cvtFloat Arith.f32 d (x.rounding f 0 l) (Arith.f32.val (x.single f f.a l))
    let v := Arith.cvtFloat d Arith.f32 Arith.nearest (d.val n.1)
    let ea := x.bound f.a l
    let u := Arith.ulp d.emin d.fb (d.val n.1)
    ((v.1, n.2), boundCode [ea] (Arith.f32.val v.1) (n.2 &&& Arith.overflow != 0) (ea.dyadic.add u))))

/-- `vaccept`: ends the bounded life of vd and counts the lanes over the threshold (R137, R406). -/
def execVaccept (f : LaneFields) (s : State) : Out :=
  .next (
    let i : Instr := .vaccept f
    if !i.wellFormed then s.laneTrap undefinedCause 0 (s.me.active f.sel)
    else if !s.me.lf.isTagged f.dst then s.laneTrap typeCause 0 (s.me.active f.sel)
    else
      let x := s.me
      let act := x.todo f.sel
      let exceeds := maskOf (fun l =>
        let pair := x.image true f.dst l
        let v := Arith.f32.val (pair % 2 ^ 32)
        let b := Arith.f32.val (pair / 2 ^ 32)
        let t := Arith.f32.val (x.single f f.b l)
        let big : Val := match b with | .fin _ m e => .fin false m e | .inf _ => .inf false | n => n
        b.isNan || t.isNan || v.isNan || v.isInf || Arith.ltVal t big) &&& act
      let lf := (x.lf.putMask 7 act exceeds).setTag (match f.dst with | .v n => n.val | _ => 128) false
      let s : State := { s with me := { x with lf } }
      let n := ((List.finRange 96).filter (fun l => exceeds.getLsbD l.val)).length
      let s := s.deliver f (BitVec.ofNat 64 n)
      { s with me := s.me.retireLane 0 })

/-- The larger bound pattern: a NaN bound gives the default NaN (R138). -/
def maxBound (p q : Nat) : Nat :=
  let a := Arith.f32.val p
  let b := Arith.f32.val q
  if a.isNan || b.isNan then Arith.f32.defaultNan else if Arith.ltVal a b then q else p

/-- `vbound`: the largest bound over the active lanes (R138). -/
def execVbound (f : LaneFields) (s : State) : Out :=
  .next (
    let i : Instr := .vbound f
    if !i.wellFormed then s.laneTrap undefinedCause 0 (s.me.active f.sel)
    else if !s.me.lf.isTagged f.a then s.laneTrap typeCause 0 (s.me.active f.sel)
    else
      let x := s.me
      let act := x.todo f.sel
      let v := (List.finRange 96).foldl (fun (p : Nat) l =>
        if act.getLsbD l.val then maxBound p (x.image true f.a l / 2 ^ 32 % 2 ^ 31) else p) 0
      let s := s.deliver f (BitVec.ofNat 64 v)
      { s with me := s.me.retireLane 0 })

end Sys2Proof.Machine
end

