-- ==== Sys2Proof/Machine/Fetch.lean ====
section
/-! DEFINITION. The scalar instruction fetch path (R20, R90, R92, R256), which lane code and `ldk` go through as well. -/

namespace Sys2Proof.Machine

/-- What a fetch gives: the bytes, a fault with its address, or a wait for the host's translation. -/
inductive Fetched where
  | bytes (bs : List Byte)
  | fault (cause : BitVec 8) (addr : Word64)
  | wait
  deriving DecidableEq, Repr

/-- The fetch copy of a granule, read from the home where the core holds none (R20). DEDUCED, unsafe: log 27. DEDUCED, unsafe: log 28. -/
def State.fetchGranule (s : State) (x : Strand) (g : Nat) : State × Fetched :=
  let c := s.core x.who.id.core
  let va := BitVec.ofNat 64 (256 * g)
  match c.fetch.find? (fun l => l.granule == g && l.asid == x.sy.asid && (x.tr.sup || !l.sup)) with
  | some l => (s, .bytes l.data)
  | none =>
    if !canonical va then (s, .fault addressCause va)
    else if aperture va then (s, .fault pageFault va)
    else
      match s.homeFull (256 * g) x.sy.asid needFetch x.tr.sup 0 256 (fun _ => none) with
      | (s, .done data _ _ sup) =>
        (s.setCore x.who.id.core { s.core x.who.id.core with fetch := ⟨g, x.sy.asid, data, true, sup⟩ :: (s.core x.who.id.core).fetch }, .bytes data)
      | (s, .fault f) => (s, .fault f va)
      | (s, .host true) => (s, .wait)
      | (s, _) =>
        match s.askHostFor x.who.id x.who.gang x.sy.asid (256 * g) x.tr.sup needFetch with
        | (s, some f) => (s, .fault f va)
        | (s, none) => (s, .wait)

/-- Fetches the granules from g on, appending their bytes. -/
def State.fetchGranules (s : State) (x : Strand) (g : Nat) (acc : List Byte) : Nat → State × Fetched
  | 0 => (s, .bytes acc)
  | n + 1 =>
    match s.fetchGranule x g with
    | (s, .bytes bs) => s.fetchGranules x (g + 1) (acc ++ bs) n
    | r => r

/-- n bytes at a byte address for the strand with the turn. A fault in the first granule has the address itself, in a later one the
granule's first byte. -/
def State.fetch (s : State) (va : Word64) (n : Nat) : State × Fetched :=
  let a := va.toNat
  if !canonical va then (s, .fault addressCause va)
  else
    match s.fetchGranules s.me (a / 256) [] ((a % 256 + n + 255) / 256) with
    | (s, .bytes bs) => (s, .bytes (slice bs (a % 256) n))
    | (s, .fault f e) => (s, .fault f (if e.toNat < a then va else e))
    | r => r

end Sys2Proof.Machine
end

