-- ==== Sys2Proof/Machine/Scalar.lean ====
section
/-! DEFINITION. Meanings of the scalar instructions of chapter 03: integer and immediate groups, constants and select, branches, lane
control and mask transfer. -/

namespace Sys2Proof.Machine

/-! ## Integer group (R86, R87) -/

/-- Bits 127:64 of an exact 128-bit product. -/
def highProduct (p : Int) : Word64 := BitVec.ofInt 64 (p / 2 ^ 64)

/-- `add`: a + b (R86). -/
def execAdd (d a b : Reg) (s : State) : Out := .next (s.compute d [a, b] (s.reg a + s.reg b))

/-- `sub`: a − b (R86). -/
def execSub (d a b : Reg) (s : State) : Out := .next (s.compute d [a, b] (s.reg a - s.reg b))

/-- `mul`: bits 63:0 of a × b (R86). -/
def execMul (d a b : Reg) (s : State) : Out := .next (s.compute d [a, b] (s.reg a * s.reg b))

/-- `mulh`: bits 127:64 of the signed product (R86). -/
def execMulh (d a b : Reg) (s : State) : Out := .next (s.compute d [a, b] (highProduct ((s.reg a).toInt * (s.reg b).toInt)))

/-- `mulhn`: bits 127:64 of the unsigned product (R86). -/
def execMulhn (d a b : Reg) (s : State) : Out := .next (s.compute d [a, b] (highProduct (((s.reg a).toNat * (s.reg b).toNat : Nat) : Int)))

/-- A division: stall, then Integer Divide on a zero divisor with s(sd) unchanged, else the result (R87). -/
def State.divide (s : State) (d a b : Reg) (f : Word64 → Word64 → Word64) : State :=
  if s.pending [d, a, b] then s.stall [d, a, b]
  else if s.reg b = 0 then s.raiseTrap 0x28 0
  else (s.setReg d (f (s.reg a) (s.reg b))).advance

/-- `div`: signed quotient, truncated toward zero (R87). -/
def execDiv (d a b : Reg) (s : State) : Out := .next (s.divide d a b (fun x y => BitVec.sdiv x y))

/-- `divn`: unsigned quotient (R87). -/
def execDivn (d a b : Reg) (s : State) : Out := .next (s.divide d a b (fun x y => x / y))

/-- `rem`: signed remainder, with the sign of the dividend (R87). -/
def execRem (d a b : Reg) (s : State) : Out := .next (s.divide d a b (fun x y => BitVec.srem x y))

/-- `remn`: unsigned remainder (R87). -/
def execRemn (d a b : Reg) (s : State) : Out := .next (s.divide d a b (fun x y => x % y))

/-- `and`: a AND b (R86). -/
def execAnd (d a b : Reg) (s : State) : Out := .next (s.compute d [a, b] (s.reg a &&& s.reg b))

/-- `or`: a OR b (R86). -/
def execOr (d a b : Reg) (s : State) : Out := .next (s.compute d [a, b] (s.reg a ||| s.reg b))

/-- `xor`: a XOR b (R86). -/
def execXor (d a b : Reg) (s : State) : Out := .next (s.compute d [a, b] (s.reg a ^^^ s.reg b))

/-- `andn`: a AND NOT b (R86). -/
def execAndn (d a b : Reg) (s : State) : Out := .next (s.compute d [a, b] (s.reg a &&& ~~~(s.reg b)))

/-- The shift count b[5:0]. -/
def shiftCount (b : Word64) : Nat := (b.extractLsb' 0 6).toNat

/-- `shl`: a shifted left by b[5:0] (R86). -/
def execShl (d a b : Reg) (s : State) : Out := .next (s.compute d [a, b] (s.reg a <<< shiftCount (s.reg b)))

/-- `shr`: a shifted right, zeros in (R86). -/
def execShr (d a b : Reg) (s : State) : Out := .next (s.compute d [a, b] (s.reg a >>> shiftCount (s.reg b)))

/-- `sra`: a shifted right, a[63] in (R86). -/
def execSra (d a b : Reg) (s : State) : Out := .next (s.compute d [a, b] ((s.reg a).sshiftRight (shiftCount (s.reg b))))

/-- `rol`: a rotated left (R86). -/
def execRol (d a b : Reg) (s : State) : Out := .next (s.compute d [a, b] ((s.reg a).rotateLeft (shiftCount (s.reg b))))

/-- `min`: the smaller signed value (R86). -/
def execMin (d a b : Reg) (s : State) : Out := .next (s.compute d [a, b] (if (s.reg a).slt (s.reg b) then s.reg a else s.reg b))

/-- `max`: the larger signed value (R86). -/
def execMax (d a b : Reg) (s : State) : Out := .next (s.compute d [a, b] (if (s.reg a).slt (s.reg b) then s.reg b else s.reg a))

/-- `minn`: the smaller unsigned value (R86). -/
def execMinn (d a b : Reg) (s : State) : Out := .next (s.compute d [a, b] (if (s.reg a).ult (s.reg b) then s.reg a else s.reg b))

/-- `maxn`: the larger unsigned value (R86). -/
def execMaxn (d a b : Reg) (s : State) : Out := .next (s.compute d [a, b] (if (s.reg a).ult (s.reg b) then s.reg b else s.reg a))

/-- `seq`: 1 if a = b (R86). -/
def execSeq (d a b : Reg) (s : State) : Out := .next (s.compute d [a, b] (boolWord (s.reg a == s.reg b)))

/-- `sne`: 1 if a ≠ b (R86). -/
def execSne (d a b : Reg) (s : State) : Out := .next (s.compute d [a, b] (boolWord (s.reg a != s.reg b)))

/-- `slt`: 1 if a < b, signed (R86). -/
def execSlt (d a b : Reg) (s : State) : Out := .next (s.compute d [a, b] (boolWord ((s.reg a).slt (s.reg b))))

/-- `sle`: 1 if a ≤ b, signed (R86). -/
def execSle (d a b : Reg) (s : State) : Out := .next (s.compute d [a, b] (boolWord ((s.reg a).sle (s.reg b))))

/-- `sltn`: 1 if a < b, unsigned (R86). -/
def execSltn (d a b : Reg) (s : State) : Out := .next (s.compute d [a, b] (boolWord ((s.reg a).ult (s.reg b))))

/-- `slen`: 1 if a ≤ b, unsigned (R86). -/
def execSlen (d a b : Reg) (s : State) : Out := .next (s.compute d [a, b] (boolWord ((s.reg a).ule (s.reg b))))

/-- The number of one bits of a word. -/
def popcount {n : Nat} (x : BitVec n) : Nat := (List.range n).foldl (fun k i => if x.getLsbD i then k + 1 else k) 0
/-- Zero bits above the highest one bit; the width for zero. -/
def leadingZeros {n : Nat} (x : BitVec n) : Nat := if x = 0 then n else n - 1 - Nat.log2 x.toNat
/-- Zero bits below the lowest one bit; the width for zero. -/
def trailingZeros {n : Nat} (x : BitVec n) : Nat := ((List.range n).find? (fun i => x.getLsbD i)).getD n

/-- `popc`: the number of one bits (R86). -/
def execPopc (d a : Reg) (s : State) : Out := .next (s.compute d [a] (BitVec.ofNat 64 (popcount (s.reg a))))

/-- `clz`: leading zero bits (R86). -/
def execClz (d a : Reg) (s : State) : Out := .next (s.compute d [a] (BitVec.ofNat 64 (leadingZeros (s.reg a))))

/-- `ctz`: trailing zero bits (R86). -/
def execCtz (d a : Reg) (s : State) : Out := .next (s.compute d [a] (BitVec.ofNat 64 (trailingZeros (s.reg a))))

/-- `sextb`: a[7:0] sign-extended (R86). -/
def execSextb (d a : Reg) (s : State) : Out := .next (s.compute d [a] (((s.reg a).extractLsb' 0 8).signExtend 64))

/-- `sexth`: a[15:0] sign-extended (R86). -/
def execSexth (d a : Reg) (s : State) : Out := .next (s.compute d [a] (((s.reg a).extractLsb' 0 16).signExtend 64))

/-- `sextw`: a[31:0] sign-extended (R86). -/
def execSextw (d a : Reg) (s : State) : Out := .next (s.compute d [a] (((s.reg a).extractLsb' 0 32).signExtend 64))

/-- `zextb`: a[7:0] zero-extended (R86). -/
def execZextb (d a : Reg) (s : State) : Out := .next (s.compute d [a] (((s.reg a).extractLsb' 0 8).setWidth 64))

/-- `zexth`: a[15:0] zero-extended (R86). -/
def execZexth (d a : Reg) (s : State) : Out := .next (s.compute d [a] (((s.reg a).extractLsb' 0 16).setWidth 64))

/-- `zextw`: a[31:0] zero-extended (R86). -/
def execZextw (d a : Reg) (s : State) : Out := .next (s.compute d [a] (((s.reg a).extractLsb' 0 32).setWidth 64))

/-! ## Immediate group (R88), constants and select (R89–R91) -/

/-- `addi`: s(sa) + i (R88). -/
def execAddi (d a : Reg) (i : BitVec 13) (s : State) : Out := .next (s.compute d [a] (s.reg a + i.signExtend 64))

/-- `andi`: s(sa) AND i (R88). -/
def execAndi (d a : Reg) (i : BitVec 13) (s : State) : Out := .next (s.compute d [a] (s.reg a &&& i.signExtend 64))

/-- `ori`: s(sa) OR i (R88). -/
def execOri (d a : Reg) (i : BitVec 13) (s : State) : Out := .next (s.compute d [a] (s.reg a ||| i.signExtend 64))

/-- `xori`: s(sa) XOR i (R88). -/
def execXori (d a : Reg) (i : BitVec 13) (s : State) : Out := .next (s.compute d [a] (s.reg a ^^^ i.signExtend 64))

/-- `shli`: s(sa) shifted left by n (R88). -/
def execShli (d a : Reg) (n : BitVec 6) (s : State) : Out := .next (s.compute d [a] (s.reg a <<< n.toNat))

/-- `shri`: s(sa) shifted right, zeros in (R88). -/
def execShri (d a : Reg) (n : BitVec 6) (s : State) : Out := .next (s.compute d [a] (s.reg a >>> n.toNat))

/-- `srai`: s(sa) shifted right, the sign in (R88). -/
def execSrai (d a : Reg) (n : BitVec 6) (s : State) : Out := .next (s.compute d [a] ((s.reg a).sshiftRight n.toNat))

/-- `slti`: 1 if s(sa) < i, signed (R88). -/
def execSlti (d a : Reg) (i : BitVec 13) (s : State) : Out := .next (s.compute d [a] (boolWord ((s.reg a).slt (i.signExtend 64))))

/-- `sltni`: 1 if s(sa) < i, unsigned (R88). -/
def execSltni (d a : Reg) (i : BitVec 13) (s : State) : Out := .next (s.compute d [a] (boolWord ((s.reg a).ult (i.signExtend 64))))

/-- `ldi`: imm19 sign-extended (R89). -/
def execLdi (d : Reg) (i : BitVec 19) (s : State) : Out := .next (s.compute d [] (i.signExtend 64))

/-- `ldk`: the 8 bytes at pc + 8 × imm19, through the fetch path; no alignment is needed (R90). -/
def execLdk (d : Reg) (i : BitVec 19) (s : State) : Out :=
  .next (
    if s.pending [d] then s.stall [d]
    else
      match s.fetch (s.me.pc + 8 * i.signExtend 64) 8 with
      | (s, .bytes bs) => (s.setReg d (BitVec.ofNat 64 (ofLe bs))).advance
      | (s, .fault f e) => s.raiseTrap f e
      | (s, .wait) => s.wait .none)

/-- `sel`: s(sb) when s(sa) ≠ 0, else s(sc); all three are read (R91). -/
def execSel (d a b c : Reg) (s : State) : Out := .next (s.compute d [a, b, c] (if s.reg a = 0 then s.reg c else s.reg b))

/-! ## Branches (R92–R95) -/

/-- The target of a word offset (R80). -/
def State.target {n : Nat} (s : State) (o : BitVec n) : Word64 := s.me.pc + 4 * o.signExtend 64

/-- `b` (R94). -/
def execB (o : BitVec 25) (s : State) : Out := .next (s.jump (s.target o))

/-- The link register s59 (R11). -/
def lk : Reg := 59

/-- `bal`: lk := pc + 4 (R94). -/
def execBal (o : BitVec 25) (s : State) : Out :=
  .next (if s.pending [lk] then s.stall [lk] else (s.setReg lk (s.me.pc + 4)).jump (s.target o))

/-- The condition of R93 on a signed value. -/
def branchTaken (c : BitVec 3) (v : Word64) : Bool :=
  match c with
  | 0#3 => v == 0
  | 1#3 => v != 0
  | 2#3 => v.slt 0
  | 3#3 => !v.slt 0
  | 4#3 => (0 : Word64).slt v
  | 5#3 => !(0 : Word64).slt v
  | _ => true

/-- `bc` (R93, R94). -/
def execBc (c : BitVec 3) (a : Reg) (o : BitVec 16) (s : State) : Out :=
  .next (s.checked (Instr.bc c a o).wellFormed true [a] (fun s => if branchTaken c (s.reg a) then s.jump (s.target o) else s.advance))

/-- `jr`: Misaligned when s(sa)[1:0] ≠ 0 (R18, R94). -/
def execJr (a : Reg) (s : State) : Out :=
  .next (s.checked true true [a] (fun s =>
    if (s.reg a).extractLsb' 0 2 ≠ 0 then s.raiseTrap misalignedCause (s.reg a) else s.jump (s.reg a)))

/-- `jalr`: the target is read before s(sd) is written (R94). -/
def execJalr (d a : Reg) (s : State) : Out :=
  .next (s.checked true true [d, a] (fun s =>
    if (s.reg a).extractLsb' 0 2 ≠ 0 then s.raiseTrap misalignedCause (s.reg a)
    else (s.setReg d (s.me.pc + 4)).jump (s.reg a)))

/-- `dbnz` (R95). -/
def execDbnz (a : Reg) (o : BitVec 16) (s : State) : Out :=
  .next (s.checked (Instr.dbnz a o).wellFormed true [a] (fun s =>
    let v := s.reg a - 1
    if v = 0 then (s.setReg a v).advance else (s.setReg a v).jump (s.target o)))

/-! ## Lane control (R22–R26, R96–R98) -/

/-- A strand of role V or S may enqueue runs (R96, R152). -/
def Strand.mayRun (x : Strand) : Bool := x.who.role == 0 || x.who.role == 3

/-- The scalar register a lane instruction writes with write-back enabled, as the front end marks it (R24, R110). -/
def laneScalar (w : BitVec 96) : Option Reg :=
  match decodeLane w with
  | .ok i =>
    match i, laneParts i with
    | .vlane _, some (_, f) | .vaccept _, some (_, f) | .vbound _, some (_, f) | .vredu _, some (_, f) | .vvote _, some (_, f)
    | .vcompress _, some (_, f) => if f.wb || f.sdx = 0 then none else some f.sdx
    | _, _ => none
  | .error _ => none

/-- The policy register of a lane memory instruction (R23, R139). -/
def lanePolicy (w : BitVec 96) : Option Reg :=
  let o := (laneOpcode w).toNat
  if 0x50 ≤ o && o ≤ 0x58 then some (regOf (w.extractLsb' 73 6)) else none

/-- 96-bit instructions of a byte list. -/
def laneWordsOf (bs : List Byte) (count : Nat) : List (BitVec 96) :=
  (List.range count).map (fun i => BitVec.ofNat 96 (ofLe (slice bs (12 * i) 12)))

/-- Captures k0–k3, em and the policy registers and enqueues a run (R23, R24). -/
def State.enqueue (s : State) (k : Reg) (start : Word64) (words : List (BitVec 96)) : State :=
  let id := s.nextId
  let marks := (words.mapIdx (fun i w => (i, laneScalar w))).filterMap (fun p => p.2.map (fun r => (p.1, r)))
  let run : Run :=
    { id, start, words, next := 0, k := (List.range 4).map (fun i => s.reg (Fin.ofNat 64 (k.val + i))), em := s.me.em
      pol := (words.filterMap lanePolicy).map (fun r => (r, (s.reg r).setWidth 32)), done := [], marks, after := s.me.laneBarrier }
  let s := { s with me := { s.me with lq := { s.me.lq with runs := s.me.lq.runs ++ [run] }
                                      pend := s.me.pend ++ marks.map (fun (m : Nat × Reg) => (m.2, Source.run id)) } }
  s.bump.advance

/-- The common part of `lrun` and `lrunr` once the start is known: fetch faults, stall on policy registers and on a full queue (R24, R97). -/
def State.startRun (s : State) (k : Reg) (start : Word64) (count : Nat) : State :=
  match s.fetch start (12 * count) with
  | (s, .fault f e) => s.raiseTrap f e
  | (s, .wait) => s.wait .none
  | (s, .bytes bs) =>
    let words := laneWordsOf bs count
    let pols := words.filterMap lanePolicy
    if s.pending pols then s.stall pols
    else if 8 ≤ s.me.lq.runs.length then s.wait .none
    else s.enqueue k start words

/-- The four registers a run captures. -/
def slots (k : Reg) : List Reg := (List.range 4).map (fun i => Fin.ofNat 64 (k.val + i))

/-- `lrun` (R96): the start is LCB + 12 × index. em0–em2 are captured, so a pending em register stalls (R103). -/
def execLrun (k : Reg) (c : BitVec 5) (i : BitVec 14) (s : State) : Out :=
  .next (s.checked (Instr.lrun k c i).wellFormed s.me.mayRun (slots k ++ [56, 57, 58])
    (fun s => s.startRun k (s.me.sy.lcb + 12 * i.setWidth 64) (c.toNat + 1)))

/-- `lrunr` (R97): the start is LCB + 12 × s(sa), modulo 2^64. -/
def execLrunr (k a : Reg) (c : BitVec 5) (s : State) : Out :=
  .next (s.checked (Instr.lrunr k a c).wellFormed s.me.mayRun (slots k ++ [a, 56, 57, 58])
    (fun s => s.startRun k (s.me.sy.lcb + 12 * s.reg a) (c.toNat + 1)))

/-- `lwait`: at most n runs remain (R26, R98). -/
def execLwait (n : BitVec 19) (s : State) : Out :=
  .next (s.checked (Instr.lwait n).wellFormed true [] (fun s =>
    if s.me.lq.runs.length ≤ n.toNat then s.advance else s.wait .none))

/-! ## Mask transfer (R99) -/

/-- A 32-lane part of a mask with new bits. -/
def setPart (m : Mask) (p : Nat) (v : Word32) : Mask :=
  (m &&& ~~~(0xFFFFFFFF#96 <<< (32 * p))) ||| (v.setWidth 96 <<< (32 * p))

/-- `mget`: waits until the lane queue is empty. -/
def execMget (d : Reg) (p : BitVec 2) (k : Fin 8) (s : State) : Out :=
  .next (s.checked (Instr.mget d p k).wellFormed true [d] (fun s =>
    if s.me.lanesEmpty then (s.setReg d (maskPart s.me.lf.m[k] p.toNat)).advance else s.wait .none))

/-- `mset`: waits until the lane queue is empty. -/
def execMset (a : Reg) (p : BitVec 2) (k : Fin 8) (s : State) : Out :=
  .next (s.checked (Instr.mset a p k).wellFormed true [a] (fun s =>
    if s.me.lanesEmpty then
      ({ s with me := { s.me with lf := { s.me.lf with m := s.me.lf.m.set k (setPart s.me.lf.m[k] p.toNat ((s.reg a).setWidth 32)) } } } : State).advance
    else s.wait .none))

end Sys2Proof.Machine
end

