-- ==== Sys2Proof/Machine/LaneInt.lean ====
section
/-! DEFINITION. Meanings of the integer, compare, select, move, conversion, block and accumulator lane instructions (R119–R134). -/

namespace Sys2Proof.Machine

open Arith (Fmt Val Res Rounding intVal intCode intResult)

/-! ## Integer and logic (R119, R120) -/

/-- An integer operation on exact values; `sat` clamps (R47). -/
def intOp (t : Ty) (sat : Bool) (op : Int → Int → Int → Int) : Elt :=
  fun _ a b c => (intResult t sat (op (intVal t a) (intVal t b) (intVal t c)), 0)

/-- A bitwise operation on the N-bit elements. -/
def bitOp (t : Ty) (op : Nat → Nat → Nat) : Elt := fun _ a b _ => (op a b % 2 ^ t.width, 0)

/-- The number of one bits of an N-bit element. -/
def onesIn (n a : Nat) : Nat := ((List.range n).filter (fun i => a.testBit i)).length

/-- Zero bits above the highest one bit of an N-bit element; N for zero. -/
def zerosAbove (n a : Nat) : Nat := if a = 0 then n else n - 1 - Nat.log2 a

/-- `viadd`: a + b (R119). -/
def execViadd (f : LaneFields) (s : State) : Out := .next (s.elementwise (.viadd f) f f.ty f.ty f.ty f.ty (intOp f.ty f.sat (fun a b _ => a + b)))

/-- `visub`: a − b (R119). -/
def execVisub (f : LaneFields) (s : State) : Out := .next (s.elementwise (.visub f) f f.ty f.ty f.ty f.ty (intOp f.ty f.sat (fun a b _ => a - b)))

/-- `vimul`: the low N bits of a × b, or the clamped product (R119). -/
def execVimul (f : LaneFields) (s : State) : Out := .next (s.elementwise (.vimul f) f f.ty f.ty f.ty f.ty (intOp f.ty f.sat (fun a b _ => a * b)))

/-- `vimulh`: bits 2N − 1:N of the exact product (R119). -/
def execVimulh (f : LaneFields) (s : State) : Out := .next (s.elementwise (.vimulh f) f f.ty f.ty f.ty f.ty (intOp f.ty false (fun a b _ => a * b / 2 ^ f.ty.width)))

/-- `vimad`: a × b + c (R119). -/
def execVimad (f : LaneFields) (s : State) : Out := .next (s.elementwise (.vimad f) f f.ty f.ty f.ty f.ty (intOp f.ty f.sat (fun a b c => a * b + c)))

/-- `vimin`: the smaller (R119). -/
def execVimin (f : LaneFields) (s : State) : Out := .next (s.elementwise (.vimin f) f f.ty f.ty f.ty f.ty (intOp f.ty false (fun a b _ => min a b)))

/-- `vimax`: the larger (R119). -/
def execVimax (f : LaneFields) (s : State) : Out := .next (s.elementwise (.vimax f) f f.ty f.ty f.ty f.ty (intOp f.ty false (fun a b _ => max a b)))

/-- `viabs`: |a| (R119). -/
def execViabs (f : LaneFields) (s : State) : Out := .next (s.elementwise (.viabs f) f f.ty f.ty f.ty f.ty (intOp f.ty f.sat (fun a _ _ => a.natAbs)))

/-- `vand`: a AND b (R119). -/
def execVand (f : LaneFields) (s : State) : Out := .next (s.elementwise (.vand f) f f.ty f.ty f.ty f.ty (bitOp f.ty (· &&& ·)))

/-- `vor`: a OR b (R119). -/
def execVor (f : LaneFields) (s : State) : Out := .next (s.elementwise (.vor f) f f.ty f.ty f.ty f.ty (bitOp f.ty (· ||| ·)))

/-- `vxor`: a XOR b (R119). -/
def execVxor (f : LaneFields) (s : State) : Out := .next (s.elementwise (.vxor f) f f.ty f.ty f.ty f.ty (bitOp f.ty (· ^^^ ·)))

/-- `vnot`: NOT a (R119). -/
def execVnot (f : LaneFields) (s : State) : Out := .next (s.elementwise (.vnot f) f f.ty f.ty f.ty f.ty (bitOp f.ty (fun a _ => 2 ^ f.ty.width - 1 - a)))

/-- `vshl`: a shifted left by b mod N (R119). -/
def execVshl (f : LaneFields) (s : State) : Out := .next (s.elementwise (.vshl f) f f.ty f.ty f.ty f.ty (bitOp f.ty (fun a b => a <<< (b % f.ty.width))))

/-- `vshr`: a shifted right by b mod N, the sign in for i types (R119). -/
def execVshr (f : LaneFields) (s : State) : Out := .next (s.elementwise (.vshr f) f f.ty f.ty f.ty f.ty (fun _ a b _ => (intCode f.ty (intVal f.ty a / 2 ^ (b % f.ty.width)), 0)))

/-- `vpopc`: the number of one bits (R119). -/
def execVpopc (f : LaneFields) (s : State) : Out := .next (s.elementwise (.vpopc f) f f.ty f.ty f.ty f.ty (bitOp f.ty (fun a _ => onesIn f.ty.width a)))

/-- `vclz`: zero bits above the highest one bit (R119). -/
def execVclz (f : LaneFields) (s : State) : Out := .next (s.elementwise (.vclz f) f f.ty f.ty f.ty f.ty (bitOp f.ty (fun a _ => zerosAbove f.ty.width a)))

/-! ## Compare, select, class, move, extract (R121–R125) -/

/-- Whether a cond b holds, and the flags (R121). -/
def compare (t : Ty) (cond : Nat) (a b : Nat) : Bool × Arith.Flags :=
  match Arith.fmtOf t with
  | some d =>
    let x := d.val a
    let y := d.val b
    let nan := x.isNan || y.isNan
    let signalling := x.signalling || y.signalling
    let lt := Arith.ltVal x y
    let gt := Arith.ltVal y x
    let r : Bool := match cond with
      | 0 => !nan && !lt && !gt
      | 1 => nan || lt || gt
      | 2 => !nan && lt
      | 3 => !nan && !gt
      | 4 => !nan && gt
      | 5 => !nan && !lt
      | _ => nan
    (r, Arith.flagIf (if 2 ≤ cond && cond ≤ 5 then nan else signalling) Arith.invalid)
  | none =>
    let x := intVal t a
    let y := intVal t b
    ((match cond with
      | 0 => x == y
      | 1 => x != y
      | 2 => decide (x < y)
      | 3 => decide (x ≤ y)
      | 4 => decide (y < x)
      | _ => decide (y ≤ x)), 0)

/-- `vcmp`: bits of mK for the active lanes (R121). -/
def execVcmp (f : LaneFields) (s : State) : Out :=
  .next (s.laneChecked (.vcmp f) f (fun s =>
    let x := s.me
    let rs : Vector (Bool × Arith.Flags) 96 := lanes (fun l => compare f.ty f.cond.toNat (x.elem f f.ty f.a l) (x.elem f f.ty f.b l))
    let y : Strand := { x with lf := x.lf.putMask f.maskNo (x.todo f.sel) (maskOf (fun l => rs[l].1)) }
    { s with me := y.retireLane (gather (x.evalMask f) (rs.map (fun (r : Bool × Arith.Flags) => r.2))) }))

/-- `vsel`: A where bit l of mK is set, else B, bit for bit (R122). -/
def execVsel (f : LaneFields) (s : State) : Out :=
  .next (s.laneChecked (.vsel f) f (fun s =>
    let x := s.me
    { s with me := x.finishLanes f f.ty.wide 0 (lanes (fun l =>
      (imageOf f.ty (x.elem f f.ty (if x.lf.m[f.maskNo].getLsbD l.val then f.a else f.b) l), 0))) }))

/-- `vclass`: one class bit, an n32 (R123). -/
def execVclass (f : LaneFields) (s : State) : Out :=
  .next (s.elementwise (.vclass f) f f.ty f.ty f.ty .n32 (fun _ a _ _ => (2 ^ Arith.classOf (fmt f.ty) a, 0)))

/-- `vmov`: a copy (R124). -/
def execVmov (f : LaneFields) (s : State) : Out := .next (s.elementwise (.vmov f) f f.ty f.ty f.ty f.ty (fun _ a _ _ => (a, 0)))

/-- A uniform operand as 64 bits: a k slot, the immediate zero-extended, or zero (R125, R222). -/
def Strand.uniform (x : Strand) (f : LaneFields) (o : Opnd) : Nat :=
  match o with
  | .k n => (x.run.k.getD n.val 0).toNat
  | .imm => f.w2.toNat
  | _ => 0

/-- The scalar form of an element: sign- or zero-extended to 64 bits. -/
def scalarOf (t : Ty) (e : Nat) : Word64 := if t.isInt then BitVec.ofInt 64 (intVal t e) else BitVec.ofNat 64 e

/-- `vlane`: lane j of A, whatever the execution mask; j above 95 gives 0 (R125). -/
def execVlane (f : LaneFields) (s : State) : Out :=
  .next (s.laneChecked (.vlane f) f (fun s =>
    let x := s.me
    let j := x.uniform f f.b
    let v := if h : j < 96 then scalarOf f.ty (x.elem f f.ty f.a ⟨j, h⟩) else 0
    let s := s.deliver f v
    { s with me := s.me.retireLane 0 }))

/-! ## Conversions and blocks (R126–R129) -/

/-- `vcvt` (R72, R126). -/
def execVcvt (f : LaneFields) (s : State) : Out :=
  let src := f.cvtSrc.getD f.ty
  .next (s.elementwise (.vcvt f) f src src src f.ty (fun r a _ _ => Arith.convert src f.ty r a))

/-- The source type of `vqblk` and the format of `vdqblk`, in W0 [15:12]. -/
def blockSource (f : LaneFields) : Ty := match f.hi4.toNat with | 0 => .f32 | 1 => .bf16 | _ => .f16

/-- `vqblk`: a block of each 32 lanes; element codes to vd, scale and header to vd + 1 (R128). DEDUCED, unsafe: log 20. -/
def execVqblk (f : LaneFields) (s : State) : Out :=
  .next (s.laneChecked (.vqblk f) f (fun s =>
    let x := s.me
    let src := blockSource f
    let b := (Arith.Block.ofTy f.ty).getD .e2m1
    let act := x.evalMask f
    let value (l : Lane) : Val := (fmt src).val (x.elem f src f.a l)
    let scales : Vector Nat 3 := Vector.ofFn (fun g =>
      Arith.blockScale b (((List.finRange 96).filter (fun l => l.val / 32 == g.val && act.getLsbD l.val)).map value))
    let rs : Vector Res 96 := lanes (fun l =>
      let scale := scales.toList.getD (l.val / 32) 0
      let r := Arith.blockElem b (x.rounding f 0 l) scale (value l)
      (r.1 + 2 ^ 32 * (scale * 256), r.2))
    { s with me := x.finishLanes f true 1 rs }))

/-- `vdqblk`: decoding of the lanes' elements (R129). -/
def execVdqblk (f : LaneFields) (s : State) : Out :=
  .next (s.laneChecked (.vdqblk f) f (fun s =>
    let x := s.me
    let b := (Arith.Block.ofCode f.hi4.toNat).getD .e2m1
    let codes : Vector Nat 96 := lanes (fun l => x.word f f.a l)
    let rs : Vector Res 96 := lanes (fun l =>
      let header := x.word f f.b l
      let c (j : Nat) : Nat := codes.toList.getD (l.val / 32 * 32 + j) 0
      let r := Arith.blockDecode f.ty (x.rounding f 0 l) (Arith.elemVal b c (header / 16 % 16) (l.val % 32)) (header / 256)
      (imageOf f.ty r.1, r.2))
    { s with me := x.finishLanes f f.ty.wide 1 rs }))

/-! ## Accumulators (R130–R134) -/

/-- An operand of the accumulator group as an f64 value and the flags of its widening: an accumulator, or an element of T. -/
def Strand.wideFloat (x : Strand) (f : LaneFields) (o : Opnd) (l : Lane) : Val :=
  if o.isAcc then Arith.f64.val (x.image false o l) else (fmt f.ty).val (x.elem f f.ty o l)

/-- An operand of the accumulator group as an integer. -/
def Strand.wideInt (x : Strand) (f : LaneFields) (o : Opnd) (l : Lane) : Int :=
  if o.isAcc then intVal .i64 (x.image false o l) else intVal f.ty (x.elem f f.ty o l)

/-- Results of the accumulator group written to aD. -/
def State.accumulate (s : State) (i : Instr) (f : LaneFields) (draws : Nat) (op : Strand → Lane → Res) : State :=
  s.laneChecked i f (fun s => { s with me := s.me.finishLanes f false draws (lanes (op s.me)) })

/-- `afma`: aD + A × B (R131). -/
def execAfma (f : LaneFields) (s : State) : Out :=
  .next (s.accumulate (.afma f) f 1 (fun x l =>
    if f.ty.isF then Arith.fma Arith.f64 (x.rounding f 0 l) (x.wideFloat f f.a l) (x.wideFloat f f.b l) (Arith.f64.val (x.image false f.dst l))
    else (intResult .i64 f.sat (x.wideInt f f.a l * x.wideInt f f.b l + intVal .i64 (x.image false f.dst l)), 0)))

/-- `aadd`: A′ + B′; an n64 operand is read modulo 2^64 as i64 (R132). -/
def execAadd (f : LaneFields) (s : State) : Out :=
  .next (s.accumulate (.aadd f) f 1 (fun x l =>
    if f.ty.isF then Arith.add Arith.f64 (x.rounding f 0 l) (x.wideFloat f f.a l) (x.wideFloat f f.b l)
    else
      let as64 (v : Int) : Int := intVal .i64 (intCode .i64 v)
      (intResult .i64 f.sat (as64 (x.wideInt f f.a l) + as64 (x.wideInt f f.b l)), 0)))

/-- `aclr`: 0 (R133). -/
def execAclr (f : LaneFields) (s : State) : Out := .next (s.accumulate (.aclr f) f 0 (fun _ _ => (0, 0)))

/-- `awiden`: A widened exactly (R133). -/
def execAwiden (f : LaneFields) (s : State) : Out :=
  .next (s.accumulate (.awiden f) f 0 (fun x l =>
    if f.ty.isF then Arith.cvtFloat (fmt f.ty) Arith.f64 Arith.nearest ((fmt f.ty).val (x.elem f f.ty f.a l))
    else (intCode .i64 (intVal f.ty (x.elem f f.ty f.a l)), 0)))

/-- `anarrow`: an accumulator read as f64 or i64 and converted to D; the same kind copies the bits (R134). -/
def execAnarrow (f : LaneFields) (s : State) : Out :=
  let src : Ty := if f.hi4 = 0 then .f64 else .i64
  .next (s.laneChecked (.anarrow f) f (fun s =>
    let x := s.me
    { s with me := x.finishLanes f f.ty.wide 1 (lanes (fun l =>
      let raw := x.image false f.a l
      let r := if f.ty = src then (raw, 0) else Arith.convert src f.ty (x.rounding f 0 l) raw
      (imageOf f.ty r.1, r.2))) }))

end Sys2Proof.Machine
end

