-- ==== Sys2Proof/Machine/Memory.lean ====
section
/-! DEFINITION. Meanings of the scalar and lane memory instructions and of `fence` (R100–R105, R139–R143, R270–R295), and of the accesses'
own steps but for atomics: home access, walks, revival, replies, prefetch, shootdown. -/

namespace Sys2Proof.Machine

/-! ## Scalar loads, stores and atomics -/

/-- The trap of a space code on `ld` and `st` (R274). -/
def scalarSpaceTrap (p : BitVec 3) : Option (BitVec 8) :=
  match p.toNat with
  | 2 | 3 | 4 => some protection
  | 5 => some typeCause
  | _ => none

/-- A space-6 address that names the own core is the own G region (R237). -/
def State.ownSpace (s : State) (sp : Nat) (ea : Word64) : Nat × Word64 :=
  if sp = 6 ∧ wordBits ea 23 18 = s.me.who.peer then (1, BitVec.ofNat 64 (wordBits ea 17 0)) else (sp, ea)

/-- The checks of an address after the policy word: Address or Type, Misaligned, then Protection for a write into a descriptor (R275). -/
def State.addressChecked (s : State) (sp : Nat) (ea : Word64) (n : Nat) (write : Bool) (eff : State → State) : State :=
  match s.addressTrap s.me sp ea with
  | some c => s.raiseTrap c ea
  | none =>
    if misaligned ea n then s.raiseTrap misalignedCause ea
    else if write && s.hitsDescriptor s.me sp ea n then s.raiseTrap protection ea
    else eff s

/-- Issues a scalar access: global ones respect the limits of R457, R458 and the waiting table (R265); an own-bank one is performed at once
when nothing holds it back, and no later access of the strand is performed before it, which R303 would let one. DESIGN CHOICE, unsafe: log 112. One
that returns data marks its register pending (R103). -/
def State.issueScalar (s : State) (d : Reg) (sign : Bool) (kind : Kind) (sp : Nat) (ea : Word64) (n : Nat) (data cmp : Word64)
    (pol : Word32) : State :=
  let place := s.ownSpace sp ea
  let returns : Bool := match kind with | .store => false | .atomic _ ret => ret | _ => true
  let entry := returns && sp == 0
  let a := s.newAccess (.scalar d sign) entry kind place.1 place.2 n data cmp pol
  let mark (s : State) : State := if returns then { s with me := s.me.mark d (.reply a.n) } else s
  let count (s : State) : State :=
    if kind.reduces then { s with me := { s.me with ops := s.me.ops ++ [{ n := a.n, cls := 7, done := false, flags := 0 }] } } else s
  if sp = 0 then
    if !s.mayIssue then s.wait .none
    else if entry && !s.entryFree false then (s.stallEntry false).wait .none
    else (count (mark (((if entry then s.takeEntry false else s).addAccess a).sendStore s.me a))).advance
  else if place.1 == 6 || (match kind with | .atomic _ _ => true | _ => false) then (count (mark (s.addAccess a))).advance
  else if !s.mayPerform s.me a || s.myCrew.any (fun c => s.wakingAt c place.1 place.2.toNat n) then s.wait .none
  else
    let s := (s.addAccess a).performBank a
    match s.access.find? (fun b => b.n == a.n) with
    | some b => match b.status with
      | .done v => (s.replyScalar a d sign v).advance
      | _ => s.advance
    | none => s.advance

/-- The runs enqueued before a release are complete but for return-free reductions, which only `waitc` orders before it (R295, R305, R316). -/
def Strand.lanesReleased (x : Strand) : Bool :=
  x.lq.ops.all (fun o => o.reduce) &&
    x.lq.runs.all (fun r => decide (r.words.length ≤ r.next) && x.lq.ops.any (fun o => o.run == r.id))

/-- A release waits for the lane runs enqueued before it (R305). -/
def State.afterLanes (s : State) (release : Bool) (eff : State → State) : State :=
  if release && !s.me.lanesReleased then s.wait .none else eff s

/-- `ld` (R100–R103, R276). A space code that it may not use traps before any stall (R105): EADDR then has the value that the address register
holds, pending or not. DESIGN CHOICE, unsafe: log 84. -/
def execLd (d a b : Reg) (g : Bool) (p : BitVec 3) (z : BitVec 2) (s : State) : Out :=
  .next (
    if !(Instr.ld d a b g p z).wellFormed then s.undefined
    else match scalarSpaceTrap p with
      | some c => s.raiseTrap c (s.reg a)
      | none =>
        if s.pending [d, a, b] then s.stall [d, a, b]
        else
          let pol := (s.reg b).setWidth 32
          if !Pol.ok pol || Pol.release pol then s.undefined
          else s.addressChecked p.toNat (s.reg a) (2 ^ z.toNat) false (fun s =>
            s.issueScalar d g .load p.toNat (s.reg a) (2 ^ z.toNat) 0 0 pol))

/-- `st` (R100–R102, R104, R276), with EADDR of a forbidden space as for `ld`. DESIGN CHOICE, unsafe: log 84. -/
def execSt (d a b : Reg) (p : BitVec 3) (z : BitVec 2) (s : State) : Out :=
  .next (
    if !(Instr.st d a b p z).wellFormed then s.undefined
    else match scalarSpaceTrap p with
      | some c => s.raiseTrap c (s.reg a)
      | none =>
        if s.pending [d, a, b] then s.stall [d, a, b]
        else
          let pol := (s.reg b).setWidth 32
          if !Pol.ok pol || Pol.acquire pol then s.undefined
          else s.addressChecked p.toNat (s.reg a) (2 ^ z.toNat) true (fun s =>
            s.afterLanes (Pol.release pol) (fun s => s.issueScalar d false .store p.toNat (s.reg a) (2 ^ z.toNat) (s.reg d) 0 pol)))

/-- The reduce counter's limit of R337. -/
def Strand.reduceFull (x : Strand) : Bool := decide (4095 ≤ (x.ops.filter (fun o => o.cls == 7)).length)

/-- `amo` and `amo.nr` after decoding (R291). -/
def State.amoWith (s : State) (ok : Bool) (d a b : Reg) (o : BitVec 4) (z l ret : Bool) : State :=
  let n := if z then 8 else 4
  let sp := if l then 6 else 0
  s.checked ok true [d, a, b] (fun s =>
    let pol := (s.reg b).setWidth 32
    if !Pol.ok pol || (!ret && Pol.acquire pol) then s.undefined
    else s.addressChecked sp (s.reg a) n true (fun s =>
      if !ret && s.me.reduceFull then s.wait .none
      else s.afterLanes (Pol.release pol) (fun s => s.issueScalar d false (.atomic o ret) sp (s.reg a) n (s.reg d) 0 pol)))

/-- `amo` with return (R291). -/
def execAmo (d a b : Reg) (o : BitVec 4) (z l : Bool) (s : State) : Out := .next (s.amoWith (Instr.amo d a b o z l).wellFormed d a b o z l true)

/-- `amo.nr` (R291). -/
def execAmoNr (d a b : Reg) (o : BitVec 4) (z l : Bool) (s : State) : Out :=
  .next (s.amoWith (Instr.amoNr d a b o z l).wellFormed d a b o z l false)

/-- `cas` (R292). -/
def execCas (d a b : Reg) (z : Bool) (p : Reg) (s : State) : Out :=
  let n := if z then 8 else 4
  .next (s.checked true true [d, a, b, p] (fun s =>
    let pol := (s.reg p).setWidth 32
    if !Pol.ok pol then s.undefined
    else s.addressChecked 0 (s.reg a) n true (fun s =>
      s.afterLanes (Pol.release pol) (fun s => s.issueScalar d false .cas 0 (s.reg a) n (s.reg b) (s.reg d) pol))))

/-! ## Fences (R295) -/

/-- The release half: earlier runs complete, earlier accesses performed, the gang's GAU lines written back. DEDUCED, unsafe: log 29. -/
def State.fenceRelease (s : State) (sc : BitVec 3) (eff : State → State) : State :=
  if !s.me.lanesReleased || !s.drained then s.wait .none
  else eff (s.releaseAt s.me.who.id.core.die s.me.who.gang sc.toNat)

/-- The acquire half: earlier scalar reads have returned, and the home has performed the writes that they saw on their way (R307); the L1 and the
gang's GAU lines are invalidated. -/
def State.fenceAcquire (s : State) (sc : BitVec 3) : State :=
  if s.access.any (fun a => (a.strand == s.me.who.id && a.isScalar && a.kind.ordered && a.kind != .store && !a.kind.reduces && !a.performed) ||
    s.me.seen.contains a.n)
  then s.wait .none
  else (s.acquireAt s.me.who.id.core s.me.who.gang s.me.sy.asid sc.toNat).advance

/-- `fence.rel`. -/
def execFenceRel (sc : BitVec 3) (s : State) : Out :=
  .next (s.checked (Instr.fenceRel sc).wellFormed true [] (fun s => s.fenceRelease sc State.advance))

/-- `fence.acq`. -/
def execFenceAcq (sc : BitVec 3) (s : State) : Out :=
  .next (s.checked (Instr.fenceAcq sc).wellFormed true [] (fun s => s.fenceAcquire sc))

/-- `fence.ar`: rel, then acq. -/
def execFenceAr (sc : BitVec 3) (s : State) : Out :=
  .next (s.checked (Instr.fenceAr sc).wellFormed true [] (fun s => s.fenceRelease sc (fun s => s.fenceAcquire sc)))

/-! ## Lane memory instructions -/

/-- The policy word captured at the run's `lrun` (R23, R271). -/
def Strand.policy (x : Strand) (f : LaneFields) : Word32 :=
  match x.run.pol.find? (fun (p : Reg × Word32) => p.1 == f.pol) with
  | some p => p.2
  | none => 0

/-- ea(l) of R140. -/
def Strand.gatherAddress (x : Strand) (f : LaneFields) (l : Lane) : Word64 :=
  let off : Word64 := match f.b with
    | .lane => BitVec.ofNat 64 l.val
    | .zero => 0
    | o =>
      let w : Word32 := BitVec.ofNat 32 (x.word f o l)
      if f.hi4.getLsbD 0 then w.setWidth 64 else w.signExtend 64
  x.dword f.a l + (off <<< (f.hi4.extractLsb' 1 2).toNat)

/-- ea(l) of R279. -/
def Strand.rowAddress (x : Strand) (f : LaneFields) (size : Nat) (l : Lane) : Word64 :=
  BitVec.ofNat 64 (x.uniform f f.a + x.uniform f f.b + l.val * size)

/-- The trap of a space code on a lane instruction (R274). -/
def laneSpaceTrap (i : Instr) (sp : Nat) : Option (BitVec 8) :=
  match i with
  | .vldlBe _ => none
  | .vst _ | .vstl _ | .vatom _ | .vred _ | .vcas _ => if sp = 2 then some protection else if sp = 5 then some typeCause else none
  | _ => if sp = 5 then some typeCause else none

/-- The first active lane that satisfies p. -/
def firstLane (act : Mask) (p : Lane → Bool) : Option Lane := (List.finRange 96).find? (fun l => act.getLsbD l.val && p l)

/-- The lanes of a mask whose element is misaligned, with the address of the first (R141, R275). -/
def misalignedLanes (size : Nat) (ea : Strand → Lane → Word64) (x : Strand) (act : Mask) : Option (Mask × Word64) :=
  (firstLane act (fun l => misaligned (ea x l) size)).map (fun l => (maskOf (fun k => act.getLsbD k.val && misaligned (ea x k) size), ea x l))

/-- The checks of R114 and R275 on a lane memory instruction, then the effect over its lanes and addresses. `orders` says which orders the
policy word may name, and `mis` what Misaligned finds. EMASK has the lanes that fail the check (R451). R275 puts the Address trap and the Type trap of
a space-4 offset into one check without an order: the lowest lane that fails it decides. DESIGN CHOICE, unsafe: log 85. Step 3 of R114 gives no
order to a tagged register (Type) and a space code (Protection or Type): the tagged register comes first. DESIGN CHOICE, unsafe: log 109. -/
def State.laneMemoryChecked (s : State) (i : Instr) (f : LaneFields) (orders : Word32 → Bool) (size : Nat)
    (mis : Strand → Mask → Option (Mask × Word64)) (write : Bool) (ea : Strand → Lane → Word64) (eff : State → Mask → State) : State :=
  let sp := f.space.toNat
  let pol := s.me.policy f
  let act := s.me.todo f.sel
  if !i.wellFormed || !Pol.ok pol || !orders pol then s.laneTrap undefinedCause 0 (s.me.active f.sel)
  else if s.me.lf.badRead i || s.me.lf.badWrite i then s.laneTrap typeCause 0 (s.me.active f.sel)
  else match laneSpaceTrap i sp with
    | some c => s.laneTrap c (match firstLane act (fun _ => true) with | some l => ea s.me l | none => 0) (s.me.active f.sel)
    | none =>
      match firstLane act (fun l => (s.addressTrap s.me sp (ea s.me l)).isSome) with
      | some l =>
        let c := (s.addressTrap s.me sp (ea s.me l)).getD addressCause
        s.laneTrap c (ea s.me l) (maskOf (fun k => act.getLsbD k.val && s.addressTrap s.me sp (ea s.me k) == some c))
      | none =>
        match mis s.me act with
        | some (lanes, addr) => s.laneTrap misalignedCause addr lanes
        | none =>
          match (if write then firstLane act (fun l => s.hitsDescriptor s.me sp (ea s.me l) size) else none) with
          | some l => s.laneTrap protection (ea s.me l) (maskOf (fun k => act.getLsbD k.val && s.hitsDescriptor s.me sp (ea s.me k) size))
          | none => eff s act

/-- A lane inserted by the number chosen for it. -/
def insertChoice (p : Lane × Nat) : List (Lane × Nat) → List (Lane × Nat)
  | [] => [p]
  | q :: qs => if p.2 ≤ q.2 then p :: q :: qs else q :: insertChoice p qs

/-- The active lanes as a list; when two of them overlap in the bytes they write, the order is one nobody defines (R8, R297). -/
def State.laneOrder (s : State) (act : Mask) (size : Nat) (write : Bool) (ea : Lane → Word64) : List Lane :=
  let ls := (List.finRange 96).filter (fun l => act.getLsbD l.val)
  let clash := write && ls.any (fun l => ls.any (fun k => decide (l.val < k.val) &&
    decide ((ea l).toNat < (ea k).toNat + size) && decide ((ea k).toNat < (ea l).toNat + size)))
  if clash then
    let keyed := ls.map (fun l => (l, Config.freeChoice (s.fresh + l.val)))
    (keyed.foldl (fun acc p => insertChoice p acc) []).map (·.1)
  else ls

/-- Enters a lane memory instruction as an operation with one access per lane (R142, R266); `row` for a row form. -/
def State.enterLaneOp (s : State) (f : LaneFields) (kind : Kind) (row : Bool) (sp size : Nat) (entry : Bool) (dst : Option Opnd) (act : Mask)
    (ea : Lane → Word64) (data cmp : Lane → Word64) : State :=
  let x := s.me
  let run := x.run
  let op : LaneOp := { n := s.nextId, run := run.id, idx := run.next, dst, ty := f.ty, act, arrived := 0, faulted := 0, cause := 0, eaddr := 0
                       vals := [], reduce := kind.reduces, row }
  let pol := x.policy f
  let s := s.bump
  let accs := (s.laneOrder act size true ea).foldl (fun (t : State) l =>
    let place := t.ownSpace sp (ea l)
    let a := t.newAccess (.lane op.n l) entry kind place.1 place.2 size (data l) (cmp l) pol
    (t.addAccess a).sendStore t.me a) s
  let y := { accs.me with lq := { accs.me.lq with ops := accs.me.lq.ops ++ [op] } }
  let y := if kind.reduces then { y with ops := y.ops ++ [{ n := op.n, cls := 7, done := false, flags := 0 }] } else y
  let y := y.passLane false
  { accs with me := { y with sch := { y.sch with issuedNow := true } }, fresh := accs.fresh + 96 }

/-- The instruction accesses nothing more: it is complete. -/
def State.laneDone (s : State) : State := { s with me := s.me.retireLane 0 }

/-- Whether the accesses of an own-bank lane instruction may be performed at once: nothing holds them back, and no bank of theirs is waking. -/
def State.bankFree (s : State) (f : LaneFields) (kind : Kind) (sp size : Nat) (act : Mask) (ea : Lane → Word64) : Bool :=
  (List.finRange 96).all (fun l => !act.getLsbD l.val || !s.myCrew.any (fun c => s.wakingAt c sp (ea l).toNat size) &&
    s.mayPerform s.me { s.newAccess (.lane s.nextId l) false kind sp (ea l) size 0 0 (s.me.policy f) with n := s.nextId })

/-- Performs an own-bank load or store of the active lanes, whole (R236), as it issues: the values read, by lane. DESIGN CHOICE, unsafe: log 112. -/
def State.bankAccess (s : State) (f : LaneFields) (store : Bool) (sp size : Nat) (act : Mask) (ea : Lane → Word64) (data : Lane → Word64) :
    State × Vector Nat 96 :=
  let pol := s.me.policy f
  let who := s.me.who
  let s := if Pol.release pol then s.releaseAt who.id.core.die who.gang (Pol.scope pol) else s
  let s := if Pol.acquire pol then s.acquireAt who.id.core who.gang s.me.sy.asid (Pol.scope pol) else s
  match s.myCrew with
  | none => (s, Vector.replicate 96 0)
  | some c =>
    if store then
      let c' := (s.laneOrder act size true ea).foldl (fun (c : Crew) l => c.store sp (ea l).toNat (leBytes size (data l).toNat)) c
      ({ s.modifyCrew who.gang who.peer (fun _ => c') with fresh := s.fresh + 96 }, Vector.replicate 96 0)
    else (s, lanes (fun l => if act.getLsbD l.val then ofLe (c.load sp (ea l).toNat size) else 0))

/-- A load by lanes: global and peer lanes become accesses, own-bank lanes deliver at once. -/
def State.laneLoad (s : State) (f : LaneFields) (row : Bool) (size : Nat) (act : Mask) (ea : Lane → Word64) : State :=
  let sp := f.space.toNat
  if act = 0 then s.laneDone
  else if sp = 0 ∨ sp = 6 then
    if sp = 0 ∧ !s.entryFree true then s.stallEntry true
    else (if sp = 0 then s.takeEntry true else s).enterLaneOp f .load row sp size (sp == 0) (some f.dst) act ea (fun _ => 0) (fun _ => 0)
  else if !s.bankFree f .load sp size act ea then s
  else
    let r := s.bankAccess f false sp size act ea (fun _ => 0)
    let y := { r.1.me with lf := r.1.me.lf.put f.dst f.ty.wide act (r.2.map (fun v => imageOf f.ty v)) }
    { r.1 with me := y.retireLane 0 }

/-- A store by lanes. -/
def State.laneStore (s : State) (f : LaneFields) (row : Bool) (size : Nat) (act : Mask) (ea : Lane → Word64) (data : Lane → Word64) : State :=
  let sp := f.space.toNat
  if act = 0 then s.laneDone
  else if sp = 0 ∨ sp = 6 then s.enterLaneOp f .store row sp size false none act ea data (fun _ => 0)
  else if !s.bankFree f .store sp size act ea then s
  else (s.bankAccess f true sp size act ea data).1.laneDone

/-- Operand C of a memory instruction as data. -/
def Strand.dataOf (x : Strand) (f : LaneFields) (l : Lane) : Word64 := BitVec.ofNat 64 (x.elem f f.ty (f.c.getD .zero) l)

/-- `vld` (R139–R142, R277). -/
def execVld (f : LaneFields) (s : State) : Out :=
  let size := f.ty.width / 8
  let ea : Strand → Lane → Word64 := fun x l => x.gatherAddress f l
  .next (s.laneMemoryChecked (.vld f) f (fun p => !Pol.release p) size (misalignedLanes size ea) false ea
    (fun s act => s.laneLoad f false size act (s.me.gatherAddress f)))

/-- `vst` (R139–R141, R143, R277). -/
def execVst (f : LaneFields) (s : State) : Out :=
  let size := f.ty.width / 8
  let ea : Strand → Lane → Word64 := fun x l => x.gatherAddress f l
  .next (s.laneMemoryChecked (.vst f) f (fun p => !Pol.acquire p) size (misalignedLanes size ea) true ea
    (fun s act => s.laneStore f false size act (s.me.gatherAddress f) (s.me.dataOf f)))

/-- The base of a row (R279). -/
def Strand.rowBase (x : Strand) (f : LaneFields) : Word64 := BitVec.ofNat 64 (x.uniform f f.a + x.uniform f f.b)

/-- The checks of a row form: Misaligned is asked of the base, which depends on no lane (R108, R275, R279). -/
def State.rowChecked (s : State) (i : Instr) (f : LaneFields) (orders : Word32 → Bool) (size : Nat) (write : Bool)
    (eff : State → Mask → State) : State :=
  s.laneMemoryChecked i f orders size (fun x act => if misaligned (x.rowBase f) size then some (act, x.rowBase f) else none) write
    (fun x l => x.rowAddress f size l) eff

/-- `vldl` (R278, R279, R281). -/
def execVldl (f : LaneFields) (s : State) : Out :=
  let size := f.ty.width / 8
  .next (s.rowChecked (.vldl f) f (fun p => !Pol.release p) size false (fun s act => s.laneLoad f true size act (s.me.rowAddress f size)))

/-- `vldl.be`: value to vd, bound to vd + 1, and the tag, even when no lane is active (R280). -/
def execVldlBe (f : LaneFields) (s : State) : Out :=
  .next (s.rowChecked (.vldlBe f) f (fun p => !Pol.release p) 8 false (fun s act =>
    let ea := s.me.rowAddress f 8
    if !s.bankFree f .load 5 8 act ea then s
    else
      let r := s.bankAccess f false 5 8 act ea (fun _ => 0)
      let lf := (r.1.me.lf.put f.dst true act r.2).setTag (match f.dst with | .v n => n.val | _ => 128) true
      { r.1 with me := ({ r.1.me with lf } : Strand).retireLane 0 }))

/-- `vstl` (R278, R279, R281). -/
def execVstl (f : LaneFields) (s : State) : Out :=
  let size := f.ty.width / 8
  .next (s.rowChecked (.vstl f) f (fun p => !Pol.acquire p) size true
    (fun s act => s.laneStore f true size act (s.me.rowAddress f size) (s.me.dataOf f)))

/-- The scalar operation code of a lane operation code and type (R290). -/
def laneAtomicCode (t : Ty) (op : Nat) : BitVec 4 :=
  if op < 5 then (if op = 1 ∧ t.isF then 9 else BitVec.ofNat 4 op)
  else if t.isF then BitVec.ofNat 4 (op + 5)
  else if t.signed then BitVec.ofNat 4 op
  else BitVec.ofNat 4 (op + 2)

/-- Atomics by lanes become accesses, in local spaces too (R284). -/
def State.laneAtomic (s : State) (f : LaneFields) (kind : Kind) (size : Nat) (dst : Option Opnd) (act : Mask) (ea : Lane → Word64)
    (data cmp : Lane → Word64) : State :=
  let sp := f.space.toNat
  let entry := sp == 0 && !kind.reduces
  if act = 0 then s.laneDone
  else if kind.reduces && s.me.reduceFull then s
  else if entry && !s.entryFree true then s.stallEntry true
  else (if entry then s.takeEntry true else s).enterLaneOp f kind false sp size entry dst act ea data cmp

/-- `vatom` (R293, R294). -/
def execVatom (f : LaneFields) (s : State) : Out :=
  let size := f.ty.width / 8
  let ea : Strand → Lane → Word64 := fun x l => x.gatherAddress f l
  .next (s.laneMemoryChecked (.vatom f) f (fun _ => true) size (misalignedLanes size ea) true ea (fun s act =>
    s.laneAtomic f (.atomic (laneAtomicCode f.ty (f.hi5.extractLsb' 0 4).toNat) true) size (some f.dst) act (s.me.gatherAddress f)
      (s.me.dataOf f) (fun _ => 0)))

/-- `vred` (R293, R294). -/
def execVred (f : LaneFields) (s : State) : Out :=
  let size := f.ty.width / 8
  let ea : Strand → Lane → Word64 := fun x l => x.gatherAddress f l
  .next (s.laneMemoryChecked (.vred f) f (fun p => !Pol.acquire p) size (misalignedLanes size ea) true ea (fun s act =>
    s.laneAtomic f (.atomic (laneAtomicCode f.ty (f.hi5.extractLsb' 0 4).toNat) false) size none act (s.me.gatherAddress f)
      (s.me.dataOf f) (fun _ => 0)))

/-- `vcas`: the address is A alone, B the compare value, C the new value (R293, R294). -/
def execVcas (f : LaneFields) (s : State) : Out :=
  let size := f.ty.width / 8
  let ea : Strand → Lane → Word64 := fun x l => x.dword f.a l
  .next (s.laneMemoryChecked (.vcas f) f (fun _ => true) size (misalignedLanes size ea) true ea (fun s act =>
    s.laneAtomic f .cas size (some f.dst) act (s.me.dword f.a) (s.me.dataOf f) (fun l => BitVec.ofNat 64 (s.me.elem f f.ty f.b l))))

/-- L1 prefetches of a core that are outstanding (R282). -/
def State.l1Prefetches (s : State) (c : CoreId) : Nat := (s.access.filter (fun a => a.strand.core == c && a.kind == .prefetch true)).length

/-- `vpref`: requests granules, raises no trap but Undefined, and changes nothing else (R282). With 16 L1 prefetches outstanding a further request
is dropped; the lanes of one instruction are asked in ascending order, which the spec leaves open (R8). DESIGN CHOICE, unsafe: log 90. -/
def execVpref (f : LaneFields) (s : State) : Out :=
  .next (
    let pol := s.me.policy f
    if !(Instr.vpref f).wellFormed || !Pol.ok pol then s.laneTrap undefinedCause 0 (s.me.active f.sel)
    else
      let x := s.me
      let l1 := f.hi4.getLsbD 3
      let s := (List.finRange 96).foldl (fun (s : State) l =>
        let ea := x.gatherAddress f l
        if !(x.todo f.sel).getLsbD l.val || !canonical ea || aperture ea || (l1 && decide (16 ≤ s.l1Prefetches x.who.id.core)) then s
        else s.addAccess (s.newAccess (.lane 0 l) false (.prefetch l1) 0 ea 1 0 0 (pol &&& 0x00FFFF00#32))) s
      s.laneDone)

/-! ## The accesses' own steps -/

/-- HOME_ACCESS: a load or store is performed where it is served; an access to the aperture is sent to its peer (R232, R247, R255, R509). -/
def execHomeAccess (n : Nat) (s : State) : Out :=
  .next (match s.ready n with
    | some a =>
      if a.space ≠ 0 then s
      else if aperture a.va then (match a.kind with | .prefetch _ | .operation => s | _ => s.performAperture a)
      else match a.kind with
        | .load | .store => s.performPlain a
        | _ => s
    | none => s)

/-- TABLE_WALK: a walker resolves the access's page, fills the TLB, or gives Page Fault; an access without a walker waits (R250–R255). An engine or
the device itself makes its access again after the walk. -/
def execTableWalk (n : Nat) (s : State) : Out :=
  .next (match s.access.find? (fun a => a.n == n && a.status == .walking && s.hasWalker a) with
    | none => s
    | some a =>
      let s := s.countEvent (8 + s.home a.va.toNat) 4
      let walked : State := match s.walk a.asid a.va.toNat with
        | .leaf e big _ _ => (s.tlbFill (s.home a.va.toNat) a.asid a.va.toNat e big none).setStatus n .issued
        | _ => s.homeStatus a (.fault pageFault)
      if a.gang = processors then walked.dropAccess n else walked)

/-- PAGE_REVIVAL: an attached discarded page is zeroed and its disc bit cleared before the write is performed; a frame reclaimed meanwhile is a
Page Fault (R261, R262). -/
def execPageRevival (n : Nat) (s : State) : Out :=
  .next (match s.access.find? (fun a => a.n == n && a.status == .reviving) with
    | none => s
    | some a =>
      match s.revive a.asid a.va.toNat with
      | (s, some c) => s.homeStatus a (.fault c)
      | (s, none) => s.setStatus n .issued)

/-- HOME_ATOMIC of a data atomic; the lock instructions' part stands with the locks. -/
def State.homeAtomicPlain (s : State) (a : Access) : State :=
  if a.space = 0 ∧ !aperture a.va ∧ 3 ≤ Pol.scope a.pol then s.performHomeAtomic a else s

/-- GAU_ATOMIC: an atomic of strand, crew or gang scope (R284, R286). -/
def execGauAtomic (n : Nat) (s : State) : Out :=
  .next (match s.ready n with
    | some a =>
      if a.space = 0 ∧ !aperture a.va ∧ Pol.scope a.pol < 3 then
        match a.kind with
        | .atomic _ _ | .cas => s.performGauAtomic a
        | _ => s
      else s
    | none => s)

/-- After a local or peer access is performed, a lane's value arrives at once. -/
def State.arriveLocal (s : State) (n : Nat) : State :=
  match s.access.find? (fun a => a.n == n) with
  | some a => match a.origin with
    | .lane _ _ => s.replyLane a
    | .scalar _ _ => s
  | none => s

/-- BANK_ALU_ATOMIC: an atomic in a local space or on a peer's G (R284). -/
def execBankAluAtomic (n : Nat) (s : State) : Out :=
  .next (match s.ready n with
    | some a =>
      if a.space = 0 then s
      else match a.kind with
        | .atomic _ _ | .cas => (s.performBank a).arriveLocal n
        | _ => s
    | none => s)

/-- What is performed with an access at a bank: of a row, the lanes whose bytes lie in the same aligned unit of the port's 128 bytes (R236, R279). -/
def State.bankUnit (s : State) (a : Access) : List Access :=
  match a.origin with
  | .scalar _ _ => [a]
  | .lane op _ =>
    if (s.strand a.strand).any (fun x => x.lq.ops.any (fun o => o.n == op && o.row)) then
      s.access.filter (fun b => b.strand == a.strand && b.space == a.space && b.va.toNat / 128 == a.va.toNat / 128 && b.status == .issued &&
        (match b.origin with | .lane p _ => p == op | .scalar _ _ => false))
    else [a]

/-- PEER_G_ACCESS: a load or store on a peer's G (R237, R238); the slice of a row is one unit. -/
def execPeerGAccess (n : Nat) (s : State) : Out :=
  .next (match s.ready n with
    | some a =>
      if a.space = 0 then s
      else match a.kind with
        | .load | .store =>
          let unit := s.bankUnit a
          if unit.all (fun b => (s.ready b.n).isSome) then unit.foldl (fun (s : State) b => (s.performBank b).arriveLocal b.n) s else s
        | _ => s
    | none => s)

/-- SCALAR_LOAD_REPLY: returning data is written to the pending register (R103). -/
def execScalarLoadReply (n : Nat) (s : State) : Out :=
  .next (match s.access.find? (fun a => a.n == n) with
    | some a => match a.origin, a.status with
      | .scalar d sign, .done v => s.replyScalar a d sign v
      | _, _ => s
    | none => s)

/-- An access is held behind a faulted one of its strand. -/
def State.heldBack (s : State) (a : Access) : Bool :=
  !a.isFaulted && (s.strand a.strand).any (fun x => (s.stuck x).any (fun b => b.n == a.n))

/-- LANE_LOAD_REPLY: the reply of one home to a lane instruction (R266). Accesses that a faulted one holds back have not left the core. -/
def execLaneLoadReply (n : Nat) (chip : Nat) (s : State) : Out :=
  .next (
    let group := s.access.filter (fun a => (match a.origin with | .lane op _ => op == n | .scalar _ _ => false) && s.replyFrom a == chip)
    if group.all (fun a => a.performed || a.isFaulted || s.heldBack a) then group.foldl (fun s a => s.replyLane a) s else s)

/-- Scalar accesses that faulted, and those that the ordering rules hold behind one of them, in issue order. -/
def State.faultList (s : State) (x : Strand) : List Access := (s.stuck x).filter (fun a => a.isScalar && a.kind.plain)

/-- The faulted access of a device-scope lock instruction that a strand waits in. DEDUCED, unsafe: log 32. -/
def State.lockFault (s : State) (x : Strand) : Option (Access × BitVec 8) :=
  match x.sch.wait with
  | .lock n | .unlock n => (s.access.find? (fun (b : Access) => b.n == n)).bind (fun b => match b.status with | .faulted c => some (b, c) | _ => none)
  | _ => none

/-- The faulted accesses of a strand form its replay list, in issue order; of a list that is performed again, from the first that faults on. Those
held behind one are set aside with it; a handler's own are fatal (R452, R458). DEDUCED, safe: log 31. -/
def Strand.takeFaults (x : Strand) (list : List Access) : Strand :=
  if x.tr.sup then { x with failed := x.failed ++ list }
  else
    let again (a : Access) : Bool := a.isFaulted || x.redo.contains a.n
    { x with replay := list.filter again, behind := list.filter (fun a => !again a), redo := [] }

/-- SCALAR_FAULT_REPLY: a lock instruction that the home refused traps (R217, R221), but for a drain, which leaves it (R478). Once every other outstanding access has replied, the
faulted ones wait for their trap (R458). -/
def execScalarFaultReply (t : StrandId) (s : State) : Out :=
  .next (match s.strand t with
    | none => s
    | some x => match s.lockFault x with
      | some (b, c) => if x.sch.hold then s else ((((s.focus t).dropAccess b.n).wait .none).raiseTrap c b.va)
      | none =>
      let list := s.faultList x
      let listed (a : Access) : Bool := list.any (fun b => b.n == a.n)
      let others := s.access.filter (fun a => a.strand == t && a.isScalar && a.space == 0 && a.kind.plain && !listed a)
      if list.isEmpty || !others.isEmpty || (!x.replay.isEmpty && !x.tr.sup) then s
      else
        let s := { s with access := s.access.filter (fun a => !listed a) }
        s.modify t (fun y => y.takeFaults list))

/-- The granule of a prefetch lies in a host-leaf page, as the home finds. -/
def State.hostPage (s : State) (a : Access) : State × Bool :=
  let h := s.home a.va.toNat
  let s := if (s.cachedLeaf h a.asid a.va.toNat).isSome then s else (s.translate true h a.asid a.va.toNat).1
  (s, (s.cachedLeaf h a.asid a.va.toNat).any Leaf.isHost)

/-- PREFETCH_FILL: a prefetch is served at its home, or dropped where it would fault or finds a host-leaf page (R282). A granule of which a gang
on the core has a GAU line fills no L1 line (R240, R302). DEDUCED, unsafe: log 102. -/
def execPrefetchFill (n : Nat) (s : State) : Out :=
  .next (match s.access.find? (fun a => a.n == n) with
    | none => s
    | some a =>
      match a.kind with
      | .prefetch l1 =>
        let core := a.strand.core
        let g := a.va.toNat / 256
        if !s.reachesHome core.die a.va.toNat then s
        else if s.walkersBusy a.asid a.va.toNat then s.queueWalk a.asid a.va.toNat
        else
        let s := s.dropAccess n
        match s.hostPage a with
        | (s, true) => s
        | (s, false) =>
          match s.homeApply true a.va.toNat a.asid needRead a.sup a.pol 1 (fun _ => none) with
          | (t, .done _ data r sup) =>
            if !l1 || t.gauGuards core g a.asid then t
            else
              let data := t.withSent core a.asid g data
              let t := t.refreshFills core a.asid g data
              t.setCore core ((t.core core).fill { granule := g, asid := a.asid, data, r, sup })
          | (_, _) => s
      | _ => s)

end Sys2Proof.Machine
end

