-- ==== Sys2Proof/Machine/Engine.lean ====
section
/-! DEFINITION. What the engines share: outstanding counters and `waitc` (R333–R340), engine faults (R354, R357, R358, R463), and the
accesses of an engine to global and local memory (R236, R342, R357). -/

namespace Sys2Proof.Machine

/-! ## The agent of a command -/

/-- Whom an accepted command acts for (R333, R342). -/
structure Agent where
  strand : StrandId
  gang : GangId
  peer : Nat
  asid : BitVec 16
  sup : Bool
  pol : Word32
  deriving DecidableEq, Repr

/-- The strand with the turn as the agent of a command with a policy word. -/
def Strand.agent (x : Strand) (pol : Word32) : Agent :=
  { strand := x.who.id, gang := x.who.gang, peer := x.who.peer, asid := x.sy.asid, sup := x.tr.sup, pol }

/-- What an engine's access gives. -/
inductive Got where
  | bytes (bs : List Byte)
  | fault (cause : BitVec 8) (ea : Word64)
  | wait
  deriving DecidableEq, Repr

/-- Cuts n bytes from an address at multiples of a size, with fuel. -/
def cuts (size : Nat) : Nat → Nat → Nat → List (Nat × Nat)
  | 0, _, _ => []
  | f + 1, a, n =>
    if n = 0 then []
    else
      let k := min n (size - a % size)
      (a, k) :: cuts size f (a + k) (n - k)

/-- Cuts n bytes at granule boundaries. -/
def segments (f a n : Nat) : List (Nat × Nat) := cuts 256 f a n

/-! ## The peer aperture (R509–R513) -/

/-- The request of an engine to another device for a segment: outstanding, or answered and not yet taken. -/
def State.peerAsked (s : State) (w : Agent) (va : Word64) (n : Nat) (write : Bool) : Option Access :=
  s.access.find? (fun a => a.kind == .operation && !a.entry && a.strand == w.strand && a.gang == w.gang && a.va == va && a.size == n &&
    a.cmp == (if write then 4 else 3))

/-- Sends the request of an engine for a segment: a read, or a write of bytes. -/
def State.peerAsk (s : State) (w : Agent) (va : Word64) (n : Nat) (new : Option (List Byte)) : State :=
  let a : Access :=
    { n := s.nextId, run := 0, after := 0, sent := false, strand := w.strand, gang := w.gang, origin := .scalar 0 false, entry := false
      kind := .operation, space := 0, va, size := n, asid := w.asid, sup := w.sup, data := 0, cmp := if new.isSome then 4 else 3, pol := w.pol
      line := none, status := .peer }
  (s.addAccess a).sendFlits (s.routePort (peerDevice va)) [s.requestFlit a (match new with | some bs => .store bs | none => .load)]

/-- A segment of an engine's access to the peer aperture: at this device's own window, or by a request that it waits for. The answer stays until the
whole access is made. -/
def State.peerSegment (s : State) (w : Agent) (va : Word64) (n : Nat) (new : Option (List Byte)) : State × Got :=
  let dev := peerDevice va
  if !s.routeOk dev then (s.peerError 0 dev (peerOffset va), .fault pageFault va)
  else if !s.reaches w.strand.core.die (24 + (s.routePort dev).die.val) then (s, .wait)
  else if dev = s.ddb.devId.toNat then
    match s.exported (peerOffset va) (if new.isSome then needWrite else needRead) n (fun _ => new) with
    | (s, some (.ok bs)) => (s, .bytes bs)
    | (s, some (.error c)) => (s.peerError c dev (peerOffset va), .fault pageFault va)
    | (s, none) => (s, .wait)
  else match s.peerAsked w va n new.isSome with
    | none => (s.peerAsk w va n new, .wait)
    | some a => match a.status, a.line with
      | .faulted c, _ => (s.dropAccess a.n, .fault c va)
      | _, some l => (s, .bytes l.1)
      | _, none => (s, .wait)

/-- The answers to an access of several segments are taken. -/
def State.peerTaken (s : State) (w : Agent) (write : Bool) (segs : List (Nat × Nat)) : State :=
  segs.foldl (fun (s : State) p =>
    match s.peerAsked w (BitVec.ofNat 64 p.1) p.2 write with
    | some a => s.dropAccess a.n
    | none => s) s

/-! ## Global accesses of an engine (R342) -/

/-- One granule segment read, checked as a load, behind the core's stores to the same bytes: the gang's GAU line, or the home. -/
def State.segmentRead (s : State) (w : Agent) (a n : Nat) : State × Got :=
  let va := BitVec.ofNat 64 a
  if !canonical va then (s, .fault addressCause va)
  else if aperture va then s.peerSegment w va n none
  else if !s.pathClear w.strand.core w.asid va.toNat n || !s.reachesHome w.strand.core.die va.toNat then (s, .wait)
  else
    match (s.gauOf w.strand.core.die).find? (fun l => l.is w.gang (va.toNat / 256) w.asid) with
    | some l => (s, .bytes (slice l.data (va.toNat % 256) n))
    | none =>
      match s.homeFull va.toNat w.asid needRead w.sup w.pol n (fun _ => none) with
      | (s, .done old _ _ _) => (s, .bytes old)
      | (s, .fault c) => (s, .fault c va)
      | (s, .host true) => (s, .wait)
      | (s, _) =>
        match s.askHostFor w.strand w.gang w.asid va.toNat w.sup needRead with
        | (s, some c) => (s, .fault c va)
        | (s, none) => (s, .wait)

/-- One granule segment written, checked as a store, behind the core's stores to the same bytes; the core's L1 and the gang's GAU line take the
bytes. -/
def State.segmentWrite (s : State) (w : Agent) (a : Nat) (bs : List Byte) : State × Got :=
  let va := BitVec.ofNat 64 a
  if !canonical va then (s, .fault addressCause va)
  else if aperture va then s.peerSegment w va bs.length (some bs)
  else if !s.pathClear w.strand.core w.asid va.toNat bs.length || !s.reachesHome w.strand.core.die va.toNat then (s, .wait)
  else
    match s.homeFull va.toNat w.asid needWrite w.sup w.pol bs.length (fun _ => some bs) with
    | (s, .done _ _ _ _) =>
      ((s.l1Write w.strand.core w.asid va.toNat bs).gauWrite w.strand.core.die w.gang w.asid va.toNat bs, .bytes [])
    | (s, .fault c) => (s, .fault c va)
    | (s, .host true) => (s, .wait)
    | (s, _) =>
      match s.askHostFor w.strand w.gang w.asid va.toNat w.sup needWrite with
      | (s, some c) => (s, .fault c va)
      | (s, none) => (s, .wait)

def State.readSegments (s : State) (w : Agent) (acc : List Byte) : List (Nat × Nat) → State × Got
  | [] => (s, .bytes acc)
  | (a, n) :: rest =>
    match s.segmentRead w a n with
    | (s, .bytes bs) => s.readSegments w (acc ++ bs) rest
    | r => r

def State.writeSegments (s : State) (w : Agent) (bs : List Byte) : List (Nat × Nat) → State × Got
  | [] => (s, .bytes [])
  | (a, n) :: rest =>
    match s.segmentWrite w a (bs.take n) with
    | (s, .bytes _) => s.writeSegments w (bs.drop n) rest
    | r => r

/-- How an engine's access to an address is cut: at granules, or for another device into what one flit carries (R516). -/
def pieces (va : Word64) (n : Nat) : List (Nat × Nat) := if aperture va then cuts 128 (n / 128 + 2) va.toNat n else segments (n / 256 + 2) va.toNat n

/-- An access that has ended takes its answers; one that waits leaves them. -/
def State.peerEnd (w : Agent) (write : Bool) (va : Word64) (n : Nat) : State × Got → State × Got
  | (s, .wait) => (s, .wait)
  | (s, r) => (if aperture va then s.peerTaken w write (pieces va n) else s, r)

/-- n global bytes. Addresses count modulo 2^64. -/
def State.globalRead (s : State) (w : Agent) (va : Word64) (n : Nat) : State × Got :=
  State.peerEnd w false va n (s.readSegments w [] (pieces va n))
def State.globalWrite (s : State) (w : Agent) (va : Word64) (bs : List Byte) : State × Got :=
  State.peerEnd w true va bs.length (s.writeSegments w bs (pieces va bs.length))

/-! ## Local accesses of an engine (R234–R237, R343) -/

/-- Cores of a gang. -/
def State.coresOf (s : State) (g : GangId) : Nat := match s.gangOf g with | some x => 2 ^ x.lw * 2 ^ x.lh | none => 1

/-- The crew and space an engine's local address names, with its offset; none for a peer address that names no crew. -/
def State.enginePlace (s : State) (w : Agent) (sp : Nat) (ea : Word64) : Option (Crew × Nat × Nat) :=
  if sp = 6 then
    if wordBits ea 63 24 ≠ 0 then none
    else (s.crewOf w.gang (wordBits ea 23 18)).map (fun c => (c, 1, wordBits ea 17 0))
  else (s.crewOf w.gang w.peer).map (fun c => (c, sp, ea.toNat))

/-- The bytes ea … ea + n − 1 lie in their region. -/
def State.inRegion (s : State) (w : Agent) (sp : Nat) (ea : Word64) (n : Nat) : Bool :=
  match s.enginePlace w sp ea with
  | some (c, sp, off) => decide (off + n ≤ c.limit sp)
  | none => false

/-- n bytes of any space. DEDUCED, unsafe: log 41. -/
def State.spaceRead (s : State) (w : Agent) (sp : Nat) (ea : Word64) (n : Nat) : State × Got :=
  if sp = 0 then s.globalRead w ea n
  else match s.enginePlace w sp ea with
    | some (c, sp, off) =>
      if c.limit sp < off + n then (s, .fault addressCause ea)
      else if s.wakingAt c sp off n then (s, .wait)
      else (s, .bytes (c.load sp off n))
    | none => (s, .fault addressCause ea)

def State.spaceWrite (s : State) (w : Agent) (sp : Nat) (ea : Word64) (bs : List Byte) : State × Got :=
  if sp = 0 then s.globalWrite w ea bs
  else match s.enginePlace w sp ea with
    | some (c, sp, off) =>
      if c.limit sp < off + bs.length then (s, .fault addressCause ea)
      else if s.wakingAt c sp off bs.length then (s, .wait)
      else (s.modifyCrew c.gang c.peer (fun (k : Crew) => k.store sp off bs), .bytes [])
    | none => (s, .fault addressCause ea)

/-- Rows of n bytes at a pitch from an address touch the descriptor of a defined queue (R203). -/
def State.rowsHitDescriptor (s : State) (w : Agent) (sp : Nat) (ea : Word64) (rows pitch n : Nat) : Bool :=
  if sp = 1 ∨ sp = 6 then
    match s.enginePlace w sp ea with
    | none => false
    | some (c, _, off) =>
      (List.range 32).any (fun q =>
        let d := c.descriptor q
        let r := if d < off + n then 0 else (d - off - n) / pitch + 1
        c.definesAt d && decide (r < rows) && decide (off + r * pitch < d + 32) &&
          decide (d < off + r * pitch + n))
  else false

/-! ## Order after earlier accesses (R314, R336) -/

/-- An ordered access whose place in the strand's streams is before an engine command; return-free reductions are engine operations (R302). -/
def Access.precedes (a : Access) (t : StrandId) (n run : Nat) : Bool :=
  a.strand == t && a.kind.ordered && !a.kind.reduces && !a.performed && (if a.isScalar then decide (a.n < run) else decide (a.n < n))

/-- The strand still has to perform an access that precedes its scalar engine command n (R314), in flight or set aside by a fault. A handler's
commands do not wait for what the trap set aside. -/
def State.commandHeld (s : State) (t : StrandId) (n : Nat) (sup : Bool) : Bool :=
  s.access.any (fun a => a.isScalar && a.precedes t n n) ||
    (match s.strand t with | some x => !sup && (x.replay ++ x.behind).any (fun a => decide (a.n < n)) | none => false)

/-- A lane instruction before one of a run has not completed. -/
def Strand.laneBefore (x : Strand) (sup : Bool) (n run idx : Nat) : Bool :=
  x.lq.ops.any (fun o => decide (o.n < n) && o.faulted != 0) ||
    (x.lq.runs ++ (if sup then [] else x.lq.held)).any (fun (r : Run) =>
      (decide (r.id < run) && decide (r.next < r.words.length)) || (r.id == run && decide (r.next ≤ idx)))

/-- The strand still has to perform an access of its lane stream before an `lcopy`, or a scalar access before its `lrun` (R336). -/
def State.laneCommandHeld (s : State) (t : StrandId) (n run idx : Nat) (sup : Bool) : Bool :=
  s.access.any (fun a => a.precedes t n run) ||
    (match s.strand t with
     | some x => x.laneBefore sup n run idx || (!sup && (x.replay ++ x.behind).any (fun a => decide (a.n < run)))
     | none => false)

/-! ## Counters (R315, R337–R340) -/

/-- Operations of a class that have not retired. -/
def Strand.count (x : Strand) (cls : Fin 8) : Nat := (x.ops.filter (fun o => o.cls == cls)).length

/-- Operations of a class older than one. -/
def Strand.older (x : Strand) (cls : Fin 8) (n : Nat) : Nat := (x.ops.filter (fun o => o.cls == cls && decide (o.n < n))).length

/-- Acceptance: the command takes the next number and counts (R333). -/
def State.accept (s : State) (cls : Fin 8) : State :=
  ({ s with me := { s.me with ops := s.me.ops ++ [{ n := s.nextId, cls, done := false, flags := 0 }] } } : State).bump

/-- `waitc` (R340). -/
def execWaitc (n : BitVec 9) (c : BitVec 4) (s : State) : Out :=
  let cls : Fin 8 := (c.extractLsb' 0 3).toFin
  .next (s.checked (Instr.waitc n c).wellFormed true [] (fun s =>
    if !s.me.lanesEmpty then s.wait .none
    else if s.me.count cls ≤ n.toNat then s.advance
    else s.wait (.counter cls n.toNat)))

/-- The operations of a class before the first that is not complete. -/
def donePrefix : List EngineOp → List EngineOp
  | [] => []
  | o :: rest => if o.done then o :: donePrefix rest else []

/-- OPERATION_RETIRE: complete operations of a class retire in order, with their flags (R315, R370, R424). -/
def execOperationRetire (t : StrandId) (cls : Fin 8) (s : State) : Out :=
  .next (s.modify t (fun x =>
    let gone := donePrefix (x.ops.filter (fun o => o.cls == cls))
    let flags := gone.foldl (fun (f : BitVec 5) (o : EngineOp) => f ||| o.flags) 0
    { x with ops := x.ops.filter (fun o => !gone.contains o)
             en := if cls = 4 then { x.en with mstat := x.en.mstat ||| flags }
                   else if cls = 6 then { x.en with nstat := x.en.nstat ||| flags } else x.en }))

/-! ## Engine faults (R354, R357) -/

/-- Inserts a fault in issue order. -/
def insertFault (f : EngineFault) : List EngineFault → List EngineFault
  | [] => [f]
  | g :: gs => if f.op ≤ g.op then f :: g :: gs else g :: insertFault f gs

/-- A strand with one more recorded fault, ready to take it. -/
def Strand.withFault (x : Strand) (f : EngineFault) : Strand := { x with faults := insertFault f x.faults, sch := { x.sch with parked := false } }

/-- An engine records a fault for delivery to the issuing strand. -/
def State.recordFault (s : State) (t : StrandId) (f : EngineFault) : State := s.modify t (fun x => x.withFault f)

/-- A copy fault of the strand is recorded or being served, so its other copies stop at their boundaries (R358). -/
def Strand.copyStopped (x : Strand) : Bool :=
  x.faults.any (fun f => f.cause == copyFaultCause) || (match x.serving with | some f => f.cause == copyFaultCause | none => false)

/-- CPYFS or MFS without its position field (R354, R381). -/
def copyStatus (cause : BitVec 8) (tag : BitVec 2) (kind : BitVec 2) (chunk : Nat) : Word64 :=
  BitVec.ofNat 64 (2 ^ 63 + cause.toNat * 2 ^ 48 + tag.toNat * 2 ^ 46 + kind.toNat * 2 ^ 44 + chunk % 2 ^ 24 * 2 ^ 16)

end Sys2Proof.Machine
end

