-- ==== Sys2Proof/Machine/Copy.lean ====
section
/-! DEFINITION. The copy engine (R341–R361): acceptance of `cpy`, `cpyg` and `lcopy`, chunks, faults and resume. -/

namespace Sys2Proof.Machine

/-! ## Command words -/

/-- The fields of an accepted or offered `cpy` or `cpyg` (R345, R348). `cols` is the destination row width in bytes, `rows` its rows. -/
structure Copy where
  gather : Bool
  lay : Nat
  dst : Word64
  src : Word64
  ix : Word64
  esz : Nat
  srcRows : Nat
  srcBytes : Nat
  dsp : Nat
  ssp : Nat
  isp : Nat
  pd : Nat
  ps : Nat
  zero : Bool
  deriving DecidableEq, Repr

def rotated (lay : Nat) : Bool := lay == 3 || lay == 5

namespace Copy

def rows (c : Copy) : Nat := if rotated c.lay then c.srcBytes / c.esz else c.srcRows
def cols (c : Copy) : Nat := if rotated c.lay then c.srcRows * c.esz else c.srcBytes
def total (c : Copy) : Nat := c.srcRows * c.srcBytes
def chunks (c : Copy) : Nat := (c.total + 4095) / 4096

end Copy

/-- The fields of a command from its captured registers. -/
def copyOf (gather : Bool) (lay : BitVec 3) (r : List Word64) : Copy :=
  let w (i : Nat) : Word64 := r.getD i 0
  if gather then
    { gather, lay := 0, dst := w 0, src := w 1, ix := w 2, esz := 2 ^ (wordBits (w 3) 63 62 + 1), srcRows := wordBits (w 3) 47 24
      srcBytes := wordBits (w 3) 23 0, dsp := wordBits (w 4) 63 61, ssp := wordBits (w 4) 60 58, isp := wordBits (w 4) 57 55
      pd := wordBits (w 4) 51 26, ps := wordBits (w 4) 25 0
      zero := wordBits (w 3) 61 48 == 0 && wordBits (w 4) 54 52 == 0 && wordBits (w 3) 63 62 != 3 }
  else
    { gather, lay := lay.toNat, dst := w 0, src := w 1, ix := 0, esz := 2 ^ wordBits (w 2) 63 62, srcRows := wordBits (w 2) 47 24
      srcBytes := wordBits (w 2) 23 0, dsp := wordBits (w 3) 63 61, ssp := wordBits (w 3) 60 58, isp := 0
      pd := wordBits (w 3) 55 28, ps := wordBits (w 3) 27 0, zero := wordBits (w 2) 61 48 == 0 && wordBits (w 3) 57 56 == 0 }

/-- Element size of the alignment checks. A `cpyg` moves rows of bytes and names no element size: of its operands only the index list has a size to
align to. DESIGN CHOICE, unsafe: log 103. -/
def Copy.unit (c : Copy) : Nat := if c.gather then 1 else c.esz

/-- Malformed registers, cause 0x06 (R356). -/
def Copy.malformed (c : Copy) : Bool :=
  !c.zero || c.srcRows == 0 || c.srcBytes == 0 || c.srcBytes % c.unit != 0 ||
    (rotated c.lay && decide (16777215 < c.srcRows * c.esz)) || (decide (2 ≤ c.rows) && decide (c.pd < c.cols))

/-- Bytes of an extent of rows at a pitch. -/
def extent (rows pitch n : Nat) : Nat := (rows - 1) * pitch + n

/-- Two extents of one buffer overlap (R356): by space code and addresses, with the own peer index taken as space 1. -/
def extentsMeet (own : Nat) (sp1 : Nat) (a1 : Word64) (n1 : Nat) (sp2 : Nat) (a2 : Word64) (n2 : Nat) : Bool :=
  let place (sp : Nat) (a : Word64) : Nat × Nat × Nat :=
    if sp = 6 then (if wordBits a 23 18 = own then (1, 0, wordBits a 17 0) else (6, wordBits a 23 18, wordBits a 17 0)) else (sp, 0, a.toNat)
  let p := place sp1 a1
  let q := place sp2 a2
  p.1 == q.1 && p.2.1 == q.2.1 && decide (p.2.2 < q.2.2 + n2) && decide (q.2.2 < p.2.2 + n1)

/-- The operands in the order of R353: space, address. -/
def Copy.operands (c : Copy) : List (Nat × Word64) :=
  [(c.dsp, c.dst), (c.ssp, c.src)] ++ (if c.gather then [(c.isp, c.ix)] else [])

/-- What an acceptance check of R353 gives: a Type trap at an address, or a Copy Fault with its cause. -/
inductive Refused where
  | type (ea : Word64)
  | copy (cause : BitVec 8) (ea : Word64)
  deriving DecidableEq, Repr

/-- Steps 5 to 12 of R353. DEDUCED, unsafe: log 35. -/
def State.copyRefused (s : State) (w : Agent) (c : Copy) : Option Refused :=
  let srcLen := if c.gather then 1 else extent c.srcRows c.ps c.srcBytes
  let dstLen := extent c.rows c.pd c.cols
  let ixLen := c.srcRows * c.esz
  let first (p : Nat × Word64 → Bool) : Option Word64 := (c.operands.find? p).map (·.2)
  let spaceBad : List (Bool × Word64) :=
    [(c.dsp == 4 || (c.dsp == 0 && c.ssp == 0), c.dst), (c.ssp == 2 || c.ssp == 4, c.src)] ++
      (if c.gather then [(c.isp == 2 || c.isp == 4, c.ix)] else [])
  let alignBad : List (Bool × Word64) :=
    [(c.dst.toNat % c.unit != 0 || c.pd % c.unit != 0, c.dst), (c.src.toNat % c.unit != 0 || c.ps % c.unit != 0, c.src)] ++
      (if c.gather then [(c.ix.toNat % c.esz != 0, c.ix)] else [])
  let outside : List (Bool × Word64) :=
    [(c.dsp != 0 && !s.inRegion w c.dsp c.dst dstLen, c.dst),
     (!c.gather && c.ssp != 0 && !s.inRegion w c.ssp c.src srcLen, c.src),
     (c.gather && c.isp != 0 && !s.inRegion w c.isp c.ix ixLen, c.ix)]
  let bad (xs : List (Bool × Word64)) : Option Word64 := (xs.find? (·.1)).map (·.2)
  if c.malformed then some (.copy 0x06 c.dst)
  else match first (fun p => p.1 == 5) with
  | some ea => some (.type ea)
  | none => match bad spaceBad with
  | some ea => some (.copy 0x01 ea)
  | none => match first (fun p => p.1 == 0 && !canonical p.2) with
  | some ea => some (.copy 0x07 ea)
  | none => match bad alignBad with
  | some ea => some (.copy 0x03 ea)
  | none => match bad outside with
  | some ea => some (.copy 0x02 ea)
  | none =>
    let meets := if c.gather then extentsMeet w.peer c.dsp c.dst dstLen c.isp c.ix ixLen
      else extentsMeet w.peer c.dsp c.dst dstLen c.ssp c.src srcLen
    if meets then some (.copy 0x04 c.dst)
    else if s.rowsHitDescriptor w c.dsp c.dst c.rows c.pd c.cols then some (.copy 0x05 c.dst)
    else none

/-- The Copy Fault trap at acceptance: precise, with CPYFS and CPYCK (R353–R355). -/
def State.copyTrap (s : State) (cause : BitVec 8) (tag kind : BitVec 2) (ea : Word64) : State :=
  if s.me.laneBusy then s.raiseTrap copyFaultCause ea
  else
    let pos := s.me.count (Fin.ofNat 8 tag.toNat)
    let fs := copyStatus cause tag kind 0 ||| BitVec.ofNat 64 (pos % 65536)
    ({ s with me := { s.me with en := { s.me.en with cpyfs := fs, cpyck := 0 } } } : State).raiseTrap copyFaultCause ea

/-- The registers from r on. -/
def State.regsFrom (s : State) (r : Reg) (n : Nat) : List Word64 := (List.range n).map (fun i => s.reg (Fin.ofNat 64 (r.val + i)))
def regNames (r : Reg) (n : Nat) : List Reg := (List.range n).map (fun i => Fin.ofNat 64 (r.val + i))

/-- A strand of role C may issue a copy (R152). -/
def Strand.mayCopy (x : Strand) : Bool := x.who.role == 1

/-- `cpy` and `cpyg` (R333, R344, R348, R353). -/
def State.copyCommand (s : State) (ok gather : Bool) (a b : Reg) (tag : BitVec 2) (lay : BitVec 3) : State :=
  let n := if gather then 5 else 4
  let kind : BitVec 2 := if gather then 1 else 0
  s.checked ok s.me.mayCopy (regNames a n ++ [b]) (fun s =>
    let pol := (s.reg b).setWidth 32
    let regs := s.regsFrom a n
    let c := copyOf gather lay regs
    let w := s.me.agent pol
    if !Pol.ok pol || Pol.order pol != 0 || c.operands.any (fun p => p.1 == 7) then s.undefined
    else match s.copyRefused w c with
      | some (.type ea) => s.raiseTrap typeCause ea
      | some (.copy cause ea) => s.copyTrap cause tag kind ea
      | none =>
        let core := s.core s.me.who.id.core
        if 32 ≤ (core.copies.filter (fun k => k.kind != 2)).length then s.wait .none
        else
          let cmd : CopyCmd := { n := s.nextId, strand := w.strand, gang := w.gang, peer := w.peer, kind, tag, lay, space := 0, regs, lanes := []
                                 pol, asid := w.asid, sup := w.sup, chunk := 0, run := 0, idx := 0, old := [], begun := false, bad := [], state := .queued }
          ((s.setCore w.strand.core { core with copies := core.copies ++ [cmd] }).accept (Fin.ofNat 8 tag.toNat)).advance)

/-- `cpy`. -/
def execCpy (a b : Reg) (t : BitVec 2) (l : BitVec 3) (s : State) : Out :=
  .next (s.copyCommand (Instr.cpy a b t l).wellFormed false a b t l)

/-- `cpyg`. -/
def execCpyg (a b : Reg) (t : BitVec 2) (s : State) : Out := .next (s.copyCommand (Instr.cpyg a b t).wellFormed true a b t 0)

/-! ## lcopy (R350–R352) -/

/-- Source, destination and count of a lane (R351). -/
def Strand.copyLane (x : Strand) (f : LaneFields) (l : Lane) : Word64 × Word64 × Nat :=
  let contiguous (o : Opnd) : Bool := match o with | .k _ | .zero => true | _ => false
  let a := x.dword f.a l
  let b := x.word f f.b l
  (if contiguous f.a then a + BitVec.ofNat 64 (32 * l.val) else a,
   BitVec.ofNat 64 (if contiguous f.b then (b + 32 * l.val) % 2 ^ 64 else b),
   x.word f (f.c.getD .zero) l)

/-- The Copy Fault of an `lcopy` at acceptance: a lane trap with CPYFS (R351, R354). -/
def State.lcopyTrap (s : State) (cause : BitVec 8) (tag : BitVec 2) (ea : Word64) (act : Mask) : State :=
  if s.me.lq.ops.isEmpty then
    let pos := s.me.count (Fin.ofNat 8 tag.toNat)
    let fs := copyStatus cause tag 2 0 ||| BitVec.ofNat 64 (pos % 65536)
    ({ s with me := { s.me with en := { s.me.en with cpyfs := fs, cpyck := 0 } } } : State).laneTrap copyFaultCause ea act
  else s

/-- `lcopy` (R350, R351): the checks of R114, then the Copy Fault conditions over the active lanes, then acceptance. -/
def execLcopy (f : LaneFields) (s : State) : Out :=
  let sp := f.space.toNat
  let tag : BitVec 2 := f.hi4.extractLsb' 0 2
  let pol := s.me.policy f
  let x := s.me
  let act := x.todo f.sel
  let w := x.agent pol
  let lane (l : Lane) := x.copyLane f l
  let src (l : Lane) : Word64 := (lane l).1
  let dst (l : Lane) : Word64 := (lane l).2.1
  let v (l : Lane) : Nat := (lane l).2.2
  .next (
    if !(Instr.lcopy f).wellFormed || !Pol.ok pol || Pol.order pol != 0 || sp == 7 then s.laneTrap undefinedCause 0 (x.active f.sel)
    else if x.lf.badRead (.lcopy f) then s.laneTrap typeCause 0 (x.active f.sel)
    else if sp = 5 then s.laneTrap typeCause (match firstLane act (fun _ => true) with | some l => dst l | none => 0) (x.active f.sel)
    else if act = 0 then s.laneDone
    else
      let conditions : List (BitVec 8 × (Lane → Bool) × (Lane → Word64)) :=
        [(0x01, fun _ => sp == 0 || sp == 4, dst), (0x06, fun l => decide (32 < v l), src), (0x07, fun l => !canonical (src l), src),
         (0x03, fun l => (src l).toNat % 4 != 0, src), (0x03, fun l => (dst l).toNat % 32 != 0, dst),
         (0x02, fun l => !s.inRegion w sp (dst l) 32, dst), (0x05, fun l => s.rowsHitDescriptor w sp (dst l) 1 1 32, dst)]
      match conditions.findSome? (fun c => (firstLane act c.2.1).map (fun l => (c.1, c.2.2 l))) with
      | some (cause, ea) => s.lcopyTrap cause tag ea act
      | none =>
        let core := s.core x.who.id.core
        if 64 ≤ (core.copies.filter (fun k => k.kind == 2)).length then s
        else
          let entries := (s.laneOrder act 32 true dst).map (fun l => (l.val, src l, dst l, v l))
          let cmd : CopyCmd := { n := s.nextId, strand := w.strand, gang := w.gang, peer := w.peer, kind := 2, tag, lay := 0, space := f.space
                                 regs := [], lanes := entries, pol, asid := w.asid, sup := w.sup, chunk := 0
                                 run := x.run.id, idx := x.run.next, old := [], begun := false, bad := [], state := .queued }
          let s := { s.setCore w.strand.core { core with copies := core.copies ++ [cmd] } with fresh := s.fresh + 96 }
          (s.accept (Fin.ofNat 8 tag.toNat)).laneDone)

/-! ## Chunks (R346, R347, R349) -/

/-- Source row and column of destination element (r, c) (R346). -/
def layoutSource (lay rows cols r c : Nat) : Nat × Nat :=
  match lay with
  | 1 => (rows - 1 - r, c)
  | 2 => (r, cols - 1 - c)
  | 3 => (rows - 1 - c, r)
  | 4 => (rows - 1 - r, cols - 1 - c)
  | 5 => (c, cols - 1 - r)
  | _ => (r, c)

/-- One move of a chunk: n bytes from a source address, or zeros, to a destination address. -/
structure Move where
  src : Option Word64
  dst : Word64
  n : Nat
  deriving DecidableEq, Repr

/-- Destination rows of a chunk: row, first byte, bytes. -/
def Copy.chunkRows (c : Copy) (k : Nat) : List (Nat × Nat × Nat) :=
  let lo := 4096 * k
  let hi := min (lo + 4096) c.total
  (List.range (min ((hi - 1) / c.cols + 1) (lo / c.cols + 4096) - lo / c.cols)).map (fun i =>
    let r := lo / c.cols + i
    let b0 := if r * c.cols < lo then lo - r * c.cols else 0
    (r, b0, min hi ((r + 1) * c.cols) - (r * c.cols + b0)))

/-- The moves of a chunk of a `cpy`, element by element. -/
def Copy.elementMoves (c : Copy) (k : Nat) : List Move :=
  (c.chunkRows k).flatMap (fun p =>
    (List.range (p.2.2 / c.esz)).map (fun j =>
      let b := p.2.1 + j * c.esz
      let q := layoutSource c.lay c.srcRows (c.srcBytes / c.esz) p.1 (b / c.esz)
      { src := some (c.src + BitVec.ofNat 64 (q.1 * c.ps + q.2 * c.esz)), dst := c.dst + BitVec.ofNat 64 (p.1 * c.pd + b), n := c.esz }))

/-- What reading the indices of a chunk gives. -/
inductive Moves where
  | list (ms : List Move)
  | fault (cause : BitVec 8) (ea : Word64)
  | wait
  deriving DecidableEq, Repr

/-- The moves of a chunk of a `cpyg`: each row's index is read once, and its source row is checked (R349). -/
def State.rowMoves (s : State) (w : Agent) (c : Copy) (acc : List Move) : List (Nat × Nat × Nat) → State × Moves
  | [] => (s, .list acc)
  | (r, b0, n) :: rest =>
    match s.spaceRead w c.isp (c.ix + BitVec.ofNat 64 (r * c.esz)) c.esz with
    | (s, .fault f ea) => (s, .fault f ea)
    | (s, .wait) => (s, .wait)
    | (s, .bytes bs) =>
      let j := ofLe bs
      let a := c.src + BitVec.ofNat 64 (j * c.ps)
      let dst := c.dst + BitVec.ofNat 64 (r * c.pd + b0)
      if j = 2 ^ (8 * c.esz) - 1 then s.rowMoves w c (acc ++ [{ src := none, dst, n }]) rest
      else if c.ssp = 0 && !canonical a || c.ssp ≠ 0 && !s.inRegion w c.ssp a c.srcBytes then (s, .fault addressCause a)
      else s.rowMoves w c (acc ++ [{ src := some (a + BitVec.ofNat 64 b0), dst, n }]) rest

/-- What bytes held before a command wrote them, by peer, space and offset. -/
abbrev Olds := List ((Nat × Nat × Nat) × Byte)

/-- The place of a local byte. -/
def State.byteKey (s : State) (w : Agent) (sp : Nat) (ea : Word64) : Option (Nat × Nat × Nat) :=
  if sp = 0 then none else (s.enginePlace w sp ea).map (fun p => (p.1.peer, p.2.1, p.2.2))

/-- Each byte read that the command has overwritten is the one before the command or the one of the moment; which one is not defined (R349).
DESIGN CHOICE, safe: log 8. -/
def State.eitherBytes (s : State) (w : Agent) (sp : Nat) (ea : Word64) (olds : Olds) (fresh : Nat) (bs : List Byte) : List Byte :=
  bs.mapIdx (fun i b =>
    match (s.byteKey w sp (ea + BitVec.ofNat 64 i)).bind (fun k => (olds.find? (fun e => e.1 == k)).map (·.2)) with
    | some old => if Config.freeChoice (fresh + i) % 2 = 1 then old else b
    | none => b)

/-- Notes what n bytes hold that the command is about to write for the first time. -/
def State.noteOlds (s : State) (w : Agent) (sp : Nat) (ea : Word64) (n : Nat) (olds : Olds) : Olds :=
  (List.range n).foldl (fun (olds : Olds) i =>
    match s.byteKey w sp (ea + BitVec.ofNat 64 i) with
    | some k =>
      if olds.any (fun e => e.1 == k) then olds
      else match (s.spaceRead w sp (ea + BitVec.ofNat 64 i) 1).2 with
        | .bytes [b] => (k, b) :: olds
        | _ => olds
    | none => olds) olds

/-- Performs moves in order; `keep` where the command may read what it writes. The third component is the number of moves done before a fault. -/
def State.doMoves (s : State) (olds : Olds) (keep : Bool) (w : Agent) (ssp dsp : Nat) (fresh k : Nat) : List Move → State × Olds × Nat × Got
  | [] => (s, olds, k, .bytes [])
  | m :: rest =>
    let read : State × Got := match m.src with
      | none => (s, .bytes (List.replicate m.n 0))
      | some a =>
        match s.spaceRead w ssp a m.n with
        | (t, .bytes bs) => (t, .bytes (if keep then t.eitherBytes w ssp a olds (fresh + k * 2 ^ 24) bs else bs))
        | r => r
    match read with
    | (s, .bytes bs) =>
      let olds' := if keep then s.noteOlds w dsp m.dst bs.length olds else olds
      match s.spaceWrite w dsp m.dst bs with
      | (s, .bytes _) => s.doMoves olds' keep w ssp dsp fresh (k + 1) rest
      | (s, g) => (s, olds, k, g)
    | (s, g) => (s, olds, k, g)

/-- Performs a chunk's moves; at a fault some of them have been performed, and which number is not defined (R358). DESIGN CHOICE, unsafe: log 12. -/
def State.moveChunk (s : State) (olds : Olds) (keep : Bool) (w : Agent) (ssp dsp : Nat) (ms : List Move) : State × Olds × Got :=
  let after := s.fresh + (ms.length + 1) * 2 ^ 24
  match s.doMoves olds keep w ssp dsp s.fresh 0 ms with
  | (t, o, _, .bytes bs) => ({ t with fresh := after }, o, .bytes bs)
  | (t, _, k, g) =>
    match s.doMoves olds keep w ssp dsp s.fresh 0 (ms.take (min k (Config.partialChunk s.fresh))) with
    | (u, o, _, _) =>
      match g with
      | .wait => ({ u with access := t.access, nextId := t.nextId, fresh := after }, o, .wait)
      | g => ({ u with fresh := after }, o, g)

/-! ## The engine's steps -/

def CopyCmd.agent (k : CopyCmd) : Agent := { strand := k.strand, gang := k.gang, peer := k.peer, asid := k.asid, sup := k.sup, pol := k.pol }

def State.setCopy (s : State) (core : CoreId) (k : CopyCmd) : State :=
  s.setCore core { s.core core with copies := (s.core core).copies.map (fun j => if j.n = k.n then k else j) }

/-- A completed command leaves the queue. -/
def State.copyDone (s : State) (core : CoreId) (k : CopyCmd) : State :=
  (s.setCore core { s.core core with copies := (s.core core).copies.filter (fun j => j.n != k.n) }).modify k.strand (fun x => x.opDone k.n 0)

/-- The strand's copies are stopped by a fault of one of them. -/
def State.copyHeld (s : State) (t : StrandId) : Bool := match s.strand t with | some x => x.copyStopped | none => false

def State.ends (s : State) (g : GangId) : Bool := (s.gangOf g).any (fun g => g.ending)
def State.drains (s : State) (g : GangId) : Bool := (s.gangOf g).any (fun g => g.draining)

/-- A command may go on: not while a copy fault of its strand stops it (R358), nor before what precedes it is performed (R314, R336). A chunk in
progress goes on to its boundary. In the drain of its gang a `cpy` or `cpyg` stops there and an `lcopy` completes (R360); an `lcopy` of a gang
that ends waits for no fault. DEDUCED, unsafe: log 92. -/
def State.copyFree (s : State) (k : CopyCmd) : Bool :=
  k.state != .faulted && (k.begun || ((if s.drains k.gang then k.kind == 2 else !s.copyHeld k.strand) &&
    (if k.kind = 2 then s.ends k.gang || !s.laneCommandHeld k.strand k.n k.run k.idx k.sup else !s.commandHeld k.strand k.n k.sup)))

/-- A command is worked on: it may go on and is one of at most four (R341). -/
def State.copyReady (s : State) (core : CoreId) (k : CopyCmd) : Bool :=
  s.copyFree k && (k.state == .running || decide (((s.core core).copies.filter (fun j => j.state == .running)).length < 4))

/-- A fault stops a command and is recorded, and the strand's other copies stop at their boundaries (R357, R358). A gang that ends takes no
fault. -/
def State.copyFaulted (s : State) (core : CoreId) (k : CopyCmd) (cause : BitVec 8) (ea : Word64) (lanes : Mask) : State :=
  let c := s.core core
  if s.ends k.gang then s.setCore core { c with copies := c.copies.filter (fun j => j.n != k.n) }
  else
    let stop (j : CopyCmd) : CopyCmd :=
      if j.strand == k.strand && j.gang == k.gang && j.state == .running && !j.begun then { j with state := .queued } else j
    let s := s.setCore core { c with copies := c.copies.map (fun j => if j.n = k.n then { k with state := .faulted, begun := false } else stop j) }
    s.recordFault k.strand
      { op := k.n, cause := copyFaultCause, eaddr := ea, status := copyStatus cause k.tag k.kind k.chunk
        chunk := BitVec.ofNat 64 k.chunk, lanes }

/-- A chunk of a command has ended: the command is complete or stands at the boundary, where it stops for a fault of its strand or a drain
(R358, R360); one whose gang ends goes no further (R476). -/
def State.copyBoundary (s : State) (core : CoreId) (k : CopyCmd) (chunks : Nat) : State :=
  if k.chunk + 1 < chunks then
    if s.ends k.gang then s.setCore core { s.core core with copies := (s.core core).copies.filter (fun j => j.n != k.n) }
    else s.setCopy core { k with chunk := k.chunk + 1, begun := false, state := if s.drains k.gang || s.copyHeld k.strand then .queued else .running }
  else s.copyDone core k

/-- COPY_OPERATION: one chunk of a `cpy` or `cpyg` (R347, R349). -/
def execCopyOperation (c : CoreId) (n : Nat) (s : State) : Out :=
  .next (match (s.core c).copies.find? (fun k => k.n == n && k.kind != 2) with
    | none => s
    | some k =>
      if !s.copyReady c k then s
      else
        let w := k.agent
        let cp := copyOf (k.kind == 1) k.lay k.regs
        let k := { k with state := .running }
        let r : State × Olds × Got :=
          if cp.gather then
            match s.rowMoves w cp [] (cp.chunkRows k.chunk) with
            | (s, .list ms) => s.moveChunk k.old true w cp.ssp cp.dsp ms
            | (s, .fault f ea) => (s, k.old, .fault f ea)
            | (s, .wait) => (s, k.old, .wait)
          else s.moveChunk [] false w cp.ssp cp.dsp (cp.elementMoves k.chunk)
        match r with
        | (s, old, .bytes _) => s.copyBoundary c { k with old } cp.chunks
        | (s, old, .fault f ea) => s.copyFaulted c { k with old } f ea 0
        | (s, old, .wait) => s.setCopy c { k with old, begun := true })

/-- A lane of an `lcopy`: its number, source, destination and count. -/
abbrev CopyLane := Nat × Word64 × Word64 × Nat

/-- Copies lanes in order: the lanes that faulted with cause and address, and those that wait (R352, R358). -/
def State.copyLanes (s : State) (w : Agent) (sp : Nat) (bad : List (Nat × BitVec 8 × Word64)) (left : List CopyLane) :
    List CopyLane → State × List (Nat × BitVec 8 × Word64) × List CopyLane
  | [] => (s, bad, left)
  | e :: rest =>
    match (if e.2.2.2 = 0 then (s, Got.bytes []) else s.globalRead w e.2.1 e.2.2.2) with
    | (s, .bytes bs) =>
      match s.spaceWrite w sp e.2.2.1 (bs ++ List.replicate (32 - bs.length) 0) with
      | (s, .wait) => s.copyLanes w sp bad (left ++ [e]) rest
      | (s, _) => s.copyLanes w sp bad left rest
    | (s, .fault f ea) => s.copyLanes w sp (bad ++ [(e.1, f, ea)]) left rest
    | (s, .wait) => s.copyLanes w sp bad (left ++ [e]) rest

/-- The entry of the lowest lane. -/
def lowestLane (bad : List (Nat × BitVec 8 × Word64)) : Option (Nat × BitVec 8 × Word64) :=
  bad.foldl (fun (b : Option (Nat × BitVec 8 × Word64)) e => match b with
    | none => some e
    | some d => some (if e.1 < d.1 then e else d)) none

/-- The lanes of an `lcopy` that faulted. -/
def faultedLanes (bad : List (Nat × BitVec 8 × Word64)) : Mask := maskOf (fun l => bad.any (fun b => b.1 == l.val))

/-- LCOPY_OPERATION: lanes are copied; once none of the others waits any more, those whose reads faulted stop the operation, and they alone are
left for the resume (R352, R358, R359). DEDUCED, unsafe: log 34. -/
def execLcopyOperation (c : CoreId) (n : Nat) (s : State) : Out :=
  .next (match (s.core c).copies.find? (fun k => k.n == n && k.kind == 2) with
    | none => s
    | some k =>
      if !s.copyReady c k then s
      else
        match s.copyLanes k.agent k.space.toNat k.bad [] (k.lanes.filter (fun e => !k.bad.any (fun b => b.1 == e.1))) with
        | (s, bad, left) =>
          let failed := k.lanes.filter (fun e => bad.any (fun b => b.1 == e.1))
          if !left.isEmpty then s.setCopy c { k with lanes := failed ++ left, bad, state := .running }
          else match lowestLane bad with
            | none => s.copyDone c k
            | some (_, f, ea) => s.copyFaulted c { k with lanes := failed, bad := [] } f ea (faultedLanes bad))

/-- `sret` releases a faulted copy (R359, R465): of an `lcopy`, only the lanes of EMASK are copied. -/
def State.releaseCopy (s : State) (core : CoreId) (n : Nat) (emask : Mask) : State :=
  s.setCore core { s.core core with copies := (s.core core).copies.map (fun k =>
    if k.n = n then { k with state := .queued, lanes := k.lanes.filter (fun e => emask.getLsbD e.1) } else k) }

end Sys2Proof.Machine
end

