-- ==== Sys2Proof/Machine/Dme.lean ====
section
/-! DEFINITION. The digital matrix engine (R362–R384, R76): modes, planes, ownership, the matrix commands and their execution. -/

namespace Sys2Proof.Machine

open Arith (Val)

/-! ## Modes and layouts (R364–R368) -/

namespace MatrixMode

def wt (m : Word64) : Option Ty := Ty.ofCode (m.extractLsb' 0 8)
def wtOf (m : Word64) : Ty := (wt m).getD .i8
def at' (m : Word64) : Option Ty := Ty.ofCode (m.extractLsb' 8 8)
def atOf (m : Word64) : Ty := (at' m).getD .i8
def sparse (m : Word64) : Bool := m.getLsbD 23
def legal : Ty → Bool
  | .e2m1 | .o4 | .i8 | .n8 | .e4m3 | .e5m2 | .i16 | .n16 | .f16 | .bf16 => true
  | _ => false
def ok (m : Word64) : Bool :=
  match wt m, at' m with
  | some w, some a =>
    wordBits m 63 24 == 0 && wordBits m 20 16 == 0 && legal w && legal a && w.width == a.width && w.isInt == a.isInt &&
      (!m.getLsbD 22 || a == .e4m3) && (!m.getLsbD 21 || w == .e4m3)
  | _, _ => false
def wScaled (m : Word64) : Bool := wtOf m == .e2m1 || wtOf m == .o4 || m.getLsbD 21
def aScaled (m : Word64) : Bool := atOf m == .e2m1 || atOf m == .o4 || m.getLsbD 22
def integer (m : Word64) : Bool := (wtOf m).isInt
/-- Stored elements of a column, and logical elements of a K step. -/
def ke (m : Word64) : Nat := 512 / (wtOf m).width
def kl (m : Word64) : Nat := ke m * (if sparse m then 2 else 1)
/-- Bytes of an activation row, and of its headers. -/
def ra (m : Word64) : Nat := kl m * (atOf m).width / 8
def hb (m : Word64) : Nat := if aScaled m then kl m / 8 else 0
/-- Offset of the headers in a plane, and the bytes of a plane. -/
def headers (m : Word64) : Nat := 16384 + (if sparse m then 32 * kl m else 0)
def planeBytes (m : Word64) : Nat := headers m + (if wScaled m then 32 * kl m else 0)

end MatrixMode

/-- Element i of packed elements of a type. -/
def packed (t : Ty) (bs : List Byte) (i : Nat) : Nat :=
  match t.width with
  | 4 => let y := (bs.getD (i / 2) 0).toNat; if i % 2 = 0 then y % 16 else y / 16
  | 8 => (bs.getD i 0).toNat
  | _ => ofLe (slice bs (2 * i) 2)

/-- The header word of a block of logical elements. -/
def headerWord (bs : List Byte) (base blk : Nat) : Nat := ofLe (slice bs (base + 4 * blk) 4)

/-- The value of stored element j whose block has a header, before and with its scale; a NaN or infinite scale makes a NaN (R369). -/
def scaledValue (t : Ty) (bs : List Byte) (scaled : Bool) (header j : Nat) : Val :=
  let raw : Val := match t with
    | .o4 => Arith.o4Slot (fun i => packed t bs i) (header / 16 % 16) j
    | t => match Arith.fmtOf t with
      | some f => f.val (packed t bs j)
      | none => Val.ofInt (Arith.intVal t (packed t bs j))
  if !scaled then raw
  else match Arith.bs24.val (header / 256) with
    | .fin n m e => match raw with
      | .fin n2 m2 e2 => .fin (n ^^ n2) (m * m2) (e + e2)
      | v => v
    | _ => .nan false (2 ^ 51)

/-! ## A dot product (R76) -/

/-- The products so far of one column: the exact sum, infinities of each sign, a NaN, and an invalid condition. -/
structure Dot where
  sum : Arith.Dyadic
  pos : Bool
  neg : Bool
  nan : Bool
  inv : Bool
  deriving DecidableEq, Repr

/-- Adds the exact product of two elements. -/
def Dot.add (d : Dot) (a w : Val) : Dot :=
  let d := { d with inv := d.inv || a.signalling || w.signalling }
  if a.isNan || w.isNan then { d with nan := true }
  else match Arith.mulVal a w with
    | none => { d with nan := true, inv := true }
    | some (.inf n) => if n then { d with neg := true } else { d with pos := true }
    | some v => { d with sum := Arith.Dyadic.add d.sum v.dyadic }

/-- The value of a dot product, rounded once to binary32, with its flags. DEDUCED, unsafe: log 22. -/
def Dot.round (d : Dot) : Arith.Res :=
  if d.nan || (d.pos && d.neg) then (Arith.f32.defaultNan, Arith.flagIf (d.inv || (d.pos && d.neg)) Arith.invalid)
  else
    let fl := Arith.flagIf d.inv Arith.invalid
    let r : Arith.Res := if d.pos || d.neg then (Arith.f32.signed d.neg Arith.f32.infCode, 0) else Arith.roundVal Arith.f32 Arith.nearest d.sum.val
    (r.1, r.2 ||| fl)

/-- The logical element that stored element j of column n stands for (R367). -/
def logical (m : Word64) (plane : List Byte) (n j : Nat) : Nat :=
  if MatrixMode.sparse m then
    let g := j / 2
    let y := (plane.getD (16384 + n * MatrixMode.kl m / 8 + g / 2) 0).toNat
    let nib := if g % 2 = 0 then y % 16 else y / 16
    4 * g + (if j % 2 = 0 then nib % 4 else nib / 4)
  else j

/-- The new C word of column n for one activation row (R76, R369, R376). -/
def columnStep (m : Word64) (plane row : List Byte) (n : Nat) (c : Nat) : Arith.Res :=
  let col := slice plane (64 * n) 64
  let wBase := MatrixMode.headers m + n * MatrixMode.kl m / 8
  let value (j : Nat) : Val × Val :=
    let k := logical m plane n j
    (scaledValue (MatrixMode.atOf m) row (MatrixMode.aScaled m) (headerWord row (MatrixMode.ra m) (k / 32)) k,
     scaledValue (MatrixMode.wtOf m) col (MatrixMode.wScaled m) (headerWord plane wBase (k / 32)) j)
  let stored := List.range (MatrixMode.ke m)
  if MatrixMode.integer m then
    let t := stored.foldl (fun (t : Int) j => let k := logical m plane n j
      t + Arith.intVal (MatrixMode.atOf m) (packed (MatrixMode.atOf m) row k) * Arith.intVal (MatrixMode.wtOf m) (packed (MatrixMode.wtOf m) col j)) 0
    ((((c : Int) + t) % 2 ^ 32).toNat, 0)
  else
    let d := stored.foldl (fun (d : Dot) j => let v := value j; d.add v.1 v.2) ⟨(0, 0), false, false, false, false⟩
    let r := d.round
    let q := Arith.add Arith.f32 Arith.nearest (Arith.f32.val c) (Arith.f32.val r.1)
    (q.1, q.2 ||| r.2)

/-! ## Tracked planes and ownership (R363, R371) -/

/-- Modes the planes will have, `none` for an empty one: active, shadow. -/
abbrev Tracked := Option Word64 × Option Word64

def DmeCmd.steps (k : DmeCmd) : Nat := wordBits (k.regs.getD 3 0) 15 0

def DmeCmd.track (p : Tracked) (k : DmeCmd) : Tracked :=
  match k.op with
  | .mlds => (p.1, some (k.regs.getD 1 0))
  | .mswap => (p.2, p.1)
  | .mloop => if 2 ≤ k.steps then (p.1, p.1) else p
  | .cstore | .cclr => p

def Plane.tracked (p : Plane) : Option Word64 := if p.loaded then some p.mode else none

/-- The planes as the accepted commands will leave them. -/
def Dme.tracked (d : Dme) : Tracked := d.queue.foldl DmeCmd.track (d.active.tracked, d.shadow.tracked)

def Strand.crew (x : Strand) : GangId × Nat := (x.who.gang, x.who.peer)

/-- A strand of role M (R152). -/
def Strand.mayMatrix (x : Strand) : Bool := x.who.role == 2

/-- The crew of the strand with the turn owns the DME (R370). -/
def State.ownsDme (s : State) : Bool := (s.core s.me.who.id.core).dme.owner == some s.me.crew

def State.setDme (s : State) (c : CoreId) (d : Dme) : State := s.setCore c { s.core c with dme := d }

/-- The engine with one more command waiting for it. -/
def Dme.await (d : Dme) (w : MatrixWait) : Dme := if d.waiting.contains w then d else { d with waiting := d.waiting ++ [w] }

/-- The ownership wait of a command whose crew does not own the engine, before the checks of its values (R333, R363). -/
def State.ownerWait (s : State) (eff : State → State) : State :=
  let c := s.me.who.id.core
  let d := (s.core c).dme
  if s.ownsDme || (d.owner.isNone && d.waiting.isEmpty) then eff s
  else (s.setDme c (d.await { crew := s.me.crew, strand := s.me.who.id })).wait .none

/-- The engine accepts a command of its owner now: its queue of 16 has room, and no other crew's command waits, unless the command is the one that
made its crew the owner (R362, R363). -/
def Dme.accepts (d : Dme) (t : StrandId) : Bool := decide (d.queue.length < 16) && (d.waiting.isEmpty || d.granted == some t)

/-- Acceptance of a matrix command, after its checks (R333, R362). -/
def State.acceptMatrix (s : State) (op : DmeOp) (lay : BitVec 3) (regs : List Word64) (pol : Word32) : State :=
  let c := s.me.who.id.core
  let d := (s.core c).dme
  let w := s.me.agent pol
  if !d.accepts w.strand then s.wait .none
  else
    let cmd : DmeCmd := { n := s.nextId, strand := w.strand, gang := w.gang, peer := w.peer, op, lay, regs, pol, asid := w.asid, sup := w.sup
                          step := 0, begun := false, state := .queued }
    ((s.setDme c { d.leave w.strand with owner := some s.me.crew, queue := d.queue ++ [cmd] }).accept 4).advance

/-! ## Checks (R371–R380) -/

def regionOf (c : Option Crew) (sp : Nat) : Nat := match c with | some c => c.limit sp | none => 0

/-- The trap of an extent of C: Type where it touches the bounded part, else Address beyond the exact part (R235). -/
def State.cTrap (s : State) (off n : Nat) : Option (BitVec 8) :=
  match s.myCrew with
  | none => some addressCause
  | some c =>
    if off + n ≤ c.exactBytes then none
    else if 0 < c.boundedBytes ∧ off < c.exactBytes + c.boundedBytes then some typeCause
    else some addressCause

/-- The policy word of a matrix command is well formed and relaxed (R334). -/
def engineWord (p : Word32) : Bool := Pol.ok p && Pol.order p == 0

/-- `mlds` (R372). -/
def execMlds (a b : Reg) (s : State) : Out :=
  .next (s.checked (Instr.mlds a b).wellFormed s.me.mayMatrix [a, b] (fun s => s.ownerWait (fun s =>
    let off := wordBits (s.reg a) 17 0
    if wordBits (s.reg a) 63 18 ≠ 0 || !MatrixMode.ok (s.reg b) then s.undefined
    else if off % 512 ≠ 0 then s.raiseTrap misalignedCause (BitVec.ofNat 64 off)
    else if regionOf s.myCrew 2 < off + MatrixMode.planeBytes (s.reg b) then s.raiseTrap addressCause (BitVec.ofNat 64 off)
    else s.acceptMatrix .mlds 0 [s.reg a, s.reg b] 0)))

/-- `mswap` (R373). -/
def execMswap (s : State) : Out :=
  .next (s.checked Instr.mswap.wellFormed s.me.mayMatrix [] (fun s => s.ownerWait (fun s => s.acceptMatrix .mswap 0 [] 0)))

/-- The fields of an `mloop` (R374). -/
structure Loop where
  a : Nat
  da : Nat
  c : Nat
  dc : Nat
  w : Nat
  dw : Nat
  pa : Nat
  rows : Nat
  steps : Nat
  zero : Bool
  deriving DecidableEq, Repr

def loopOf (r : List Word64) : Loop :=
  let w (i : Nat) : Word64 := r.getD i 0
  { a := wordBits (w 0) 18 0, da := wordBits (w 0) 50 32, c := wordBits (w 1) 17 0, dc := wordBits (w 1) 49 32, w := wordBits (w 2) 17 0
    dw := wordBits (w 2) 49 32, pa := wordBits (w 3) 35 24, rows := wordBits (w 3) 22 16 + 1, steps := wordBits (w 3) 15 0
    zero := wordBits (w 0) 63 51 == 0 && wordBits (w 0) 31 19 == 0 && wordBits (w 1) 63 50 == 0 && wordBits (w 1) 31 18 == 0 &&
      wordBits (w 2) 63 50 == 0 && wordBits (w 2) 31 18 == 0 && wordBits (w 3) 63 36 == 0 && wordBits (w 3) 23 23 == 0 }

/-- The mode of an `mloop` offered now: the tracked mode of the active plane (R371, R375). -/
def State.loopMode (s : State) : Option Word64 :=
  if s.ownsDme then ((s.core s.me.who.id.core).dme.tracked).1 else none

/-- The first offset, increment or pitch that breaks its limit of R374. DEDUCED, unsafe: log 37. -/
def Loop.misaligned (l : Loop) : Option Nat :=
  [(l.a, 16), (l.da, 16), (l.pa, 16), (l.c, 1024), (l.dc, 1024), (l.w, 512), (l.dw, 512)].findSome?
    (fun p => if p.1 % p.2 ≠ 0 then some p.1 else none)

/-- `mloop` (R374, R375). -/
def execMloop (a b : Reg) (s : State) : Out :=
  .next (s.checked (Instr.mloop a b).wellFormed s.me.mayMatrix (regNames a 4 ++ [b]) (fun s => s.ownerWait (fun s =>
    let pol := (s.reg b).setWidth 32
    let regs := s.regsFrom a 4
    let l := loopOf regs
    match s.loopMode with
    | none => s.undefined
    | some m =>
      let row := MatrixMode.ra m + MatrixMode.hb m
      let trap (c : BitVec 8) (off : Nat) : State := s.raiseTrap c (BitVec.ofNat 64 off)
      if !engineWord pol || !l.zero || l.steps = 0 || (2 ≤ l.rows && l.pa < row) then s.undefined
      else if let some v := l.misaligned then trap misalignedCause v
      else match s.cTrap l.c ((l.steps - 1) * l.dc + 1024 * l.rows) with
        | some f => trap f l.c
        | none =>
          if regionOf s.myCrew 3 < l.a + (l.steps - 1) * l.da + (l.rows - 1) * l.pa + row then trap addressCause l.a
          else if 2 ≤ l.steps ∧ regionOf s.myCrew 2 < l.w + (l.steps - 2) * l.dw + MatrixMode.planeBytes m then trap addressCause l.w
          else s.acceptMatrix .mloop 0 regs pol)))

/-- `cclr` (R377). -/
def execCclr (a b : Reg) (s : State) : Out :=
  .next (s.checked (Instr.cclr a b).wellFormed s.me.mayMatrix [a, b] (fun s => s.ownerWait (fun s =>
    let pol := (s.reg b).setWidth 32
    let v := s.reg a
    let off := wordBits v 17 0
    if !engineWord pol || wordBits v 31 18 ≠ 0 || wordBits v 63 40 ≠ 0 then s.undefined
    else if off % 1024 ≠ 0 then s.raiseTrap misalignedCause (BitVec.ofNat 64 off)
    else match s.cTrap off (1024 * (wordBits v 39 32 + 1)) with
      | some f => s.raiseTrap f (BitVec.ofNat 64 off)
      | none => s.acceptMatrix .cclr 0 [v] pol)))

/-- The fields of a `cstore` (R378). -/
structure Store where
  dst : Word64
  ci : Bool
  rm : BitVec 2
  dt : Option Ty
  src : Nat
  dsp : Nat
  rows : Nat
  cols : Nat
  pd : Nat
  zero : Bool
  deriving DecidableEq, Repr

def storeOf (r : List Word64) : Store :=
  let w (i : Nat) : Word64 := r.getD i 0
  let dt : Option Ty := match Ty.ofCode ((w 1).extractLsb' 32 8) with
    | some .i8 => some .i8 | some .i16 => some .i16 | some .i32 => some .i32 | some .n8 => some .n8 | some .n16 => some .n16
    | some .n32 => some .n32 | some .f32 => some .f32 | some .f16 => some .f16 | some .bf16 => some .bf16 | some .e4m3 => some .e4m3
    | some .e5m2 => some .e5m2 | _ => none
  { dst := w 0, ci := (w 1).getLsbD 42, rm := (w 1).extractLsb' 40 2, dt, src := wordBits (w 1) 17 0, dsp := wordBits (w 2) 63 61
    rows := wordBits (w 2) 23 16 + 1, cols := wordBits (w 2) 7 0 + 1, pd := wordBits (w 3) 27 0
    zero := wordBits (w 1) 63 43 == 0 && wordBits (w 1) 31 18 == 0 && wordBits (w 2) 60 24 == 0 && wordBits (w 2) 15 8 == 0 &&
      wordBits (w 3) 63 28 == 0 }

def Store.size (t : Store) : Nat := tyBytes (t.dt.getD .i8)

/-- The destination geometry of a `cstore` as a copy of its converted tile. -/
def Store.tile (t : Store) (lay : BitVec 3) : Copy :=
  { gather := false, lay := lay.toNat, dst := t.dst, src := 0, ix := 0, esz := t.size, srcRows := t.rows, srcBytes := t.cols * t.size
    dsp := t.dsp, ssp := 4, isp := 0, pd := t.pd, ps := 0, zero := true }

/-- The Copy Fault cause of a destination, in the order of R380 step 9. -/
def State.storeRefused (s : State) (w : Agent) (t : Store) (tile : Copy) : Option (BitVec 8) :=
  if 2 ≤ tile.rows ∧ tile.pd < tile.cols then some 0x06
  else if t.dsp ≠ 0 ∧ t.dsp ≠ 1 ∧ t.dsp ≠ 6 then some 0x01
  else if t.dsp = 0 && !canonical t.dst then some 0x07
  else if t.dst.toNat % t.size ≠ 0 ∨ t.pd % t.size ≠ 0 then some 0x03
  else if t.dsp ≠ 0 && !s.inRegion w t.dsp t.dst (extent tile.rows tile.pd tile.cols) then some 0x02
  else if s.rowsHitDescriptor w t.dsp t.dst tile.rows tile.pd tile.cols then some 0x05
  else none

/-- `cstore` (R378–R380). -/
def execCstore (a b : Reg) (l : BitVec 3) (s : State) : Out :=
  .next (s.checked (Instr.cstore a b l).wellFormed s.me.mayMatrix (regNames a 4 ++ [b]) (fun s => s.ownerWait (fun s =>
    let pol := (s.reg b).setWidth 32
    let regs := s.regsFrom a 4
    let t := storeOf regs
    let tile := t.tile l
    let src := BitVec.ofNat 64 t.src
    if !engineWord pol || !t.zero || t.dt.isNone || t.dsp = 7 then s.undefined
    else if t.src % 4 ≠ 0 then s.raiseTrap misalignedCause src
    else match s.cTrap t.src (1024 * (t.rows - 1) + 4 * t.cols) with
      | some f => s.raiseTrap f src
      | none =>
        if t.dsp = 5 then s.raiseTrap typeCause t.dst
        else match s.storeRefused (s.me.agent pol) t tile with
          | some cause =>
            if s.me.laneBusy then s.raiseTrap copyFaultCause t.dst
            else
              let fs := copyStatus cause 0 0 0 ||| BitVec.ofNat 64 (s.me.count 4 % 65536)
              ({ s with me := { s.me with en := { s.me.en with mfs := fs } } } : State).raiseTrap copyFaultCause t.dst
          | none => s.acceptMatrix .cstore l regs pol)))

/-! ## Execution (R362, R372–R380) -/

def DmeCmd.agent (k : DmeCmd) : Agent := { strand := k.strand, gang := k.gang, peer := k.peer, asid := k.asid, sup := k.sup, pol := k.pol }

/-- ORs flags into an operation that goes on. -/
def Strand.opFlags (x : Strand) (n : Nat) (fl : BitVec 5) : Strand :=
  { x with ops := x.ops.map (fun o => if o.n = n then { o with flags := o.flags ||| fl } else o) }

/-- The head command is complete. -/
def State.matrixDone (s : State) (c : CoreId) (k : DmeCmd) (fl : BitVec 5) : State :=
  let d := (s.core c).dme
  (s.setDme c { d with queue := d.queue.filter (fun j => j.n != k.n) }).modify k.strand (fun x => x.opDone k.n fl)

/-- The head command goes on. -/
def State.matrixGoes (s : State) (c : CoreId) (k : DmeCmd) (fl : BitVec 5) : State :=
  let d := (s.core c).dme
  (s.setDme c { d with queue := d.queue.map (fun j => if j.n = k.n then k else j) }).modify k.strand (fun x => x.opFlags k.n fl)

/-- A plane loaded from W (R372). -/
def loadPlane (c : Option Crew) (mode : Word64) (off : Nat) : Plane :=
  { loaded := true, mode, off, bytes := match c with | some c => c.load 2 off (MatrixMode.planeBytes mode) | none => [] }

/-- The element of a `cstore` tile that source element (r, c) becomes, with its flags (R379). -/
def storeElem (c : Crew) (t : Store) (r k : Nat) : Arith.Res :=
  let w := ofLe (c.load 4 (t.src + 1024 * r + 4 * k) 4)
  Arith.convert (if t.ci then .i32 else .f32) (t.dt.getD .i8) ⟨Arith.modeOf false t.rm, 0⟩ w

/-- The bytes of a row part of a `cstore`'s destination tile. -/
def storeRow (c : Crew) (t : Store) (tile : Copy) (p : Nat × Nat × Nat) : List Byte × BitVec 5 :=
  let es := (List.range (p.2.2 / t.size)).map (fun j =>
    let q := layoutSource tile.lay t.rows t.cols p.1 (p.2.1 / t.size + j)
    storeElem c t q.1 q.2)
  (es.flatMap (fun e => leBytes t.size e.1), es.foldl (fun (f : BitVec 5) e => f ||| e.2) 0)

/-- Writes row parts of a chunk in order; the flags, and how many were written before a fault. -/
def State.storeRows (s : State) (w : Agent) (c : Crew) (t : Store) (tile : Copy) (fl : BitVec 5) (k : Nat) :
    List (Nat × Nat × Nat) → State × Nat × BitVec 5 × Got
  | [] => (s, k, fl, .bytes [])
  | p :: rest =>
    let row := storeRow c t tile p
    match s.spaceWrite w t.dsp (t.dst + BitVec.ofNat 64 (p.1 * t.pd + p.2.1)) row.1 with
    | (s, .bytes _) => s.storeRows w c t tile (fl ||| row.2) (k + 1) rest
    | (s, g) => (s, k, fl, g)

/-- Parts of spaces of a crew stand in banks that are waking: an engine's access to them waits (R264). -/
def State.bankWaits (s : State) (c : Crew) (parts : List (Nat × Nat × Nat)) : Bool := parts.any (fun p => s.wakingAt c p.1 p.2.1 p.2.2)

/-- The source rows of a `cstore` in C: space, offset, bytes. -/
def Store.source (t : Store) : List (Nat × Nat × Nat) := (List.range t.rows).map (fun r => (4, t.src + 1024 * r, 4 * t.cols))

/-- One chunk of a `cstore` (R379, R380): a fault stops the operation, which holds the engine. In a gang that ends the operation ends with the
chunk (R476). -/
def State.storeChunk (s : State) (c : CoreId) (k : DmeCmd) : State :=
  let w := k.agent
  let t := storeOf k.regs
  let tile := t.tile k.lay
  match s.crewOf k.gang k.peer with
  | none => s
  | some crew =>
    if s.bankWaits crew t.source then s
    else
    let parts := tile.chunkRows k.step
    match s.storeRows w crew t tile 0 0 parts with
    | (u, _, fl, .bytes _) =>
      if k.step + 1 < tile.chunks && !u.ends k.gang then u.matrixGoes c { k with step := k.step + 1, begun := false, state := .running } fl else u.matrixDone c k fl
    | (u, _, _, .wait) => u.matrixGoes c { k with begun := true, state := .running } 0
    | (_, j, _, .fault f ea) =>
      let u := (s.storeRows w crew t tile 0 0 (parts.take (min j (Config.partialChunk s.fresh)))).1
      if u.ends k.gang then u.matrixDone c k 0
      else ({ u.matrixGoes c { k with begun := false, state := .faulted } 0 with fresh := s.fresh + 1 } : State).recordFault k.strand
        { op := k.n, cause := copyFaultCause, eaddr := ea, status := copyStatus f 0 0 k.step, chunk := 0, lanes := 0 }

/-- The engine works on its oldest command: it has not stopped at a fault; its gang is not drained for pre-emption and does not end, but for a chunk in
progress, which goes on to its boundary (R383, R476); it has begun or every scalar access before it is performed (R314, R382). -/
def State.matrixReady (s : State) (k : DmeCmd) : Bool :=
  k.state != .faulted && (k.begun || (!s.drains k.gang && !s.ends k.gang && (k.state == .running || !s.commandHeld k.strand k.n k.sup)))

/-- A `mlds`'s plane, and a `cclr`'s rows: the parts of spaces that the command accesses. -/
def DmeCmd.parts (k : DmeCmd) : List (Nat × Nat × Nat) :=
  let v := k.regs.getD 0 0
  match k.op with
  | .mlds => [(2, wordBits v 17 0, MatrixMode.planeBytes (k.regs.getD 1 0))]
  | .cclr => [(4, wordBits v 17 0, 1024 * (wordBits v 39 32 + 1))]
  | _ => []

/-- DME_COMMAND_EXECUTE: the oldest accepted command, when it is no `mloop` (R362, R372, R373, R377, R379). -/
def execDmeCommandExecute (c : CoreId) (s : State) : Out :=
  let d := (s.core c).dme
  .next (match d.queue with
    | [] => s
    | k :: _ =>
      if !s.matrixReady k || (s.crewOf k.gang k.peer).any (fun x => s.bankWaits x k.parts) then s
      else match k.op with
        | .mlds =>
          let plane := loadPlane (s.crewOf k.gang k.peer) (k.regs.getD 1 0) (wordBits (k.regs.getD 0 0) 17 0)
          (s.setDme c { d with shadow := plane }).matrixDone c k 0
        | .mswap => (s.setDme c { d with active := d.shadow, shadow := d.active }).matrixDone c k 0
        | .cclr =>
          let v := k.regs.getD 0 0
          (s.modifyCrew k.gang k.peer (fun (x : Crew) => x.store 4 (wordBits v 17 0) (List.replicate (1024 * (wordBits v 39 32 + 1)) 0))).matrixDone c k 0
        | .cstore => if s.copyHeld k.strand && !k.begun then s else s.storeChunk c k
        | .mloop => s)

/-- One K step's updates of C: rows in order, columns in order. -/
def loopRows (crew : Crew) (m : Word64) (plane : List Byte) (l : Loop) (step : Nat) : Crew × BitVec 5 :=
  (List.range l.rows).foldl (fun (p : Crew × BitVec 5) r =>
    let row := crew.load 3 (l.a + step * l.da + r * l.pa) (MatrixMode.ra m + MatrixMode.hb m)
    (List.range 256).foldl (fun (p : Crew × BitVec 5) n =>
      let off := l.c + step * l.dc + 1024 * r + 4 * n
      let q := columnStep m plane row n (ofLe (p.1.load 4 off 4))
      (p.1.store 4 off (leBytes 4 q.1), p.2 ||| q.2)) p) (crew, 0)

/-- What a K step accesses: its activation rows, its rows of C, and the plane that it loads. -/
def Loop.parts (l : Loop) (m : Word64) (step : Nat) : List (Nat × Nat × Nat) :=
  (List.range l.rows).flatMap (fun r =>
    [(3, l.a + step * l.da + r * l.pa, MatrixMode.ra m + MatrixMode.hb m), (4, l.c + step * l.dc + 1024 * r, 1024)]) ++
  (if step + 1 < l.steps then [(2, l.w + step * l.dw, MatrixMode.planeBytes m)] else [])

/-- MLOOP_STEP: one K step of the `mloop` at the head, with its shadow load and swap (R376). -/
def execMloopStep (c : CoreId) (s : State) : Out :=
  let d := (s.core c).dme
  .next (match d.queue with
    | [] => s
    | k :: _ =>
      match k.op, s.crewOf k.gang k.peer, s.matrixReady k with
      | .mloop, some crew, true =>
        let l := loopOf k.regs
        let m := d.active.mode
        if s.bankWaits crew (l.parts m k.step) then s
        else
        let r := loopRows crew m d.active.bytes l k.step
        let last := decide (l.steps ≤ k.step + 1)
        let d' := if last then d else { d with active := loadPlane (some crew) m (l.w + k.step * l.dw), shadow := d.active }
        let s := (s.modifyCrew k.gang k.peer (fun _ => r.1)).setDme c d'
        if last then s.matrixDone c k r.2 else s.matrixGoes c { k with step := k.step + 1, state := .running } r.2
      | _, _, _ => s)

/-- Matrix operations of the owner's strands have not retired, or the command that made its crew the owner is not accepted. -/
def State.ownerBusy (s : State) (d : Dme) : Bool :=
  d.granted.isSome || (match d.owner with
    | some o => s.strands.any (fun x => x.crew == o && x.count 4 != 0)
    | none => false)

/-- DME_OWNERSHIP_PASS: once every matrix operation of the owner's strands has retired, the crew whose command has waited longest owns the engine,
with both planes empty, and that command is the first accepted (R363). -/
def execDmeOwnershipPass (c : CoreId) (s : State) : Out :=
  let d := (s.core c).dme
  .next (match d.waiting with
    | [] => s
    | p :: rest =>
      if s.ownerBusy d then s
      else s.setDme c { d with owner := some p.crew, granted := some p.strand, waiting := rest.filter (fun w => w.crew != p.crew)
                               active := .empty, shadow := .empty })

/-- `sret` releases a stopped `cstore`, which redoes its chunk (R359, R380). -/
def State.releaseMatrix (s : State) (c : CoreId) (n : Nat) : State :=
  let d := (s.core c).dme
  s.setDme c { d with queue := d.queue.map (fun k => if k.n = n then { k with state := .running } else k) }

end Sys2Proof.Machine
end

