-- ==== Sys2Proof/Machine/Analog.lean ====
section
/-! DEFINITION. The analog arrays (R385–R408): programming, products with their bounds, trimming, calibration reads, drift and faults. The
converter's readings are free values that keep the bound of R390. -/

namespace Sys2Proof.Machine

open Arith (Val)

/-! ## Cells and calibration (R385, R386, R392) -/

namespace Array4

def w (a : Array4) (i j : Nat) : Int := Table.get a.code (i, j) 0
def wmaxOf (a : Array4) (j : Nat) : Nat := Table.get a.wmax j 0
def fOf (a : Array4) (j : Nat) : Nat := Table.get a.f j 0
def gcOf (a : Array4) (j : Nat) : BitVec 16 := Table.get a.gc j 0
def ocOf (a : Array4) (j : Nat) : BitVec 16 := Table.get a.oc j 0

/-- One item of the calibration state as `xcal` returns it (R392). -/
def item (a : Array4) (k : Nat) : Word64 :=
  if k < 512 then BitVec.ofNat 64 (a.fOf k % 64 * 2 ^ 40 + a.wmaxOf k % 32 * 2 ^ 32 + (a.ocOf k).toNat * 65536 + (a.gcOf k).toNat)
  else match k with
    | 512 => BitVec.ofNat 64 (a.dcount * 2 ^ 48 + a.nfail * 2 ^ 32 + (if a.valid then 65536 else 0) + a.gcode)
    | 513 => BitVec.ofNat 64 a.ops
    | 514 => a.t1 ++ a.t0
    | _ => a.d1 ++ a.d0

/-- The array as a reset leaves it: codes, wmax, f and nfail are kept (R386). -/
def afterReset (a : Array4) : Array4 := { Array4.reset with code := a.code, wmax := a.wmax, f := a.f, nfail := a.nfail }

/-- A row programmed toward its targets with write-verify (R395). DEDUCED, unsafe: log 38. -/
def programCell (a : Array4) (fresh row j : Nat) (tgt : Int) : Array4 :=
  let got := max (-31) (min 31 (Config.achievedCode fresh row j tgt))
  let miss := (got - tgt).natAbs
  let a := { a with code := Table.put a.code (row, j) tgt, wmax := Table.put a.wmax j (max (a.wmaxOf j) tgt.natAbs) }
  if miss = 0 then a else { a with f := Table.put a.f j (max (a.fOf j) miss), nfail := min 65535 (a.nfail + 1) }

end Array4

/-- A signed byte. -/
def byteInt (b : Byte) : Int := b.toInt

/-! ## Products and bounds (R388–R391) -/

/-- The inputs of one product: the codes, the range, the scale. -/
structure Product where
  xs : List Int
  r : Nat
  sx : Word32
  deriving DecidableEq, Repr

namespace Product

def s1 (p : Product) : Nat := p.xs.foldl (fun n x => n + x.natAbs) 0
/-- The exact sum of a column of codes. -/
def sum (p : Product) (col : Nat → Int) : Int := (p.xs.zipIdx).foldl (fun (n : Int) (q : Int × Nat) => n + col q.2 * q.1) 0
/-- z of R389. -/
def z (p : Product) (gc oc : BitVec 16) (k : Int) : Arith.Dyadic := ((65536 + gc.toInt) * (16 * k - oc.toInt), (p.r : Int) - 20)
/-- y of R389. -/
def y (p : Product) (gc oc : BitVec 16) (k : Int) : Nat := (Arith.mul Arith.f32 Arith.nearest (Arith.f32.val p.sx.toNat) (p.z gc oc k).val).1

end Product

/-- b of R389 for a column that is not clipped and whose y is a code. -/
def Product.bound (p : Product) (a : Array4) (j : Nat) (clipped : Bool) (y : Nat) : Nat :=
  match Arith.f32.val y, Arith.f32.val p.sx.toNat with
  | .fin n m e, .fin n2 m2 e2 =>
    if clipped then Arith.f32.infCode
    else
      let sx : Arith.Dyadic := (Val.fin n2 m2 e2).dyadic
      let inner : Arith.Dyadic := Arith.Dyadic.add (((a.gcode * a.wmaxOf j * p.s1 : Nat) : Int), -16) (((a.fOf j * p.s1 + 4 * 2 ^ p.r : Nat) : Int), 0)
      let half : Arith.Dyadic := let u := Arith.ulp (-126) 23 (.fin n m e); (u.1, u.2 - 1)
      Arith.roundUpF32 (Arith.Dyadic.add (Arith.Dyadic.mul (Arith.Dyadic.abs sx) inner) half)
  | _, _ => Arith.f32.infCode

/-- The bound of R390 holds for a column's y and b. -/
def Product.within (p : Product) (a : Array4) (j y b : Nat) : Bool :=
  match Arith.f32.val y, Arith.f32.val b, Arith.f32.val p.sx.toNat with
  | .fin n m e, .fin _ m1 e1, .fin n2 m2 e2 =>
    let ideal : Arith.Dyadic := Arith.Dyadic.mul (Val.fin n2 m2 e2).dyadic (p.sum (fun i => a.w i j), 0)
    let diff : Arith.Dyadic := Arith.Dyadic.add (Val.fin n m e).dyadic (-ideal.1, ideal.2)
    Arith.Dyadic.le (Arith.Dyadic.abs diff) ((m1 : Int), e1)
  | _, _, _ => true

/-- The code whose z is nearest to the exact sum. -/
def Product.idealCode (p : Product) (a : Array4) (j : Nat) : Int :=
  let g : Int := 65536 + (a.gcOf j).toInt
  let den : Int := g * 2 ^ p.r * 16
  let num : Int := p.sum (fun i => a.w i j) * 1048576 + (a.ocOf j).toInt * g * 2 ^ p.r
  (2 * num + den) / (2 * den)

/-- y and b from a converter code, saturated at ±32,767. -/
def Product.column (p : Product) (a : Array4) (j : Nat) (k : Int) : Nat × Nat :=
  let c := max (-32767) (min 32767 k)
  let y := p.y (a.gcOf j) (a.ocOf j) c
  (y, p.bound a j (decide (c ≠ k)) y)

/-- A column's result: the converter's code is a free value among those that keep the bound (R388–R390). -/
def Product.result (p : Product) (a : Array4) (fresh j : Nat) : Nat × Nat :=
  let free := p.column a j (Config.analogReading fresh j)
  if p.within a j free.1 free.2 then free else p.column a j (p.idealCode a j)

/-- The deviation of a reference column, whose trimmed reading is a free value in product units (R391). -/
def Product.deviation (p : Product) (fresh k : Nat) : Int :=
  Config.analogReading fresh (512 + k) - p.sum (fun i => if k = 1 ∧ i % 2 = 1 then -16 else 16)

def Product.drifts (p : Product) (d : Int) : Bool := decide (p.s1 + 16384 < 64 * d.natAbs)

/-- A saturating i32. -/
def sat32 (d : Int) : Word32 := BitVec.ofInt 32 (max (-2147483648) (min 2147483647 d))

/-! ## Acceptance (R394–R399, R402) -/

/-- The index of the last element that satisfies a test. -/
def lastIdx? {α : Type} (f : α → Bool) (l : List α) : Option Nat := (l.zipIdx.filter (fun p => f p.1)).getLast?.map (·.2)

/-- Queues a command: last, or, of a handler of the strand whose operation faulted on the array, at the head of the array's queue behind those that
the handler issued before it (R402). -/
def queueAnalog (q : List AnaCmd) (k : AnaCmd) : List AnaCmd :=
  match if k.sup then lastIdx? (fun j => j.arr == k.arr && j.strand == k.strand && j.state == .faulted) q else none with
  | none => q ++ [k]
  | some f =>
    let front := q.take f
    let i := match lastIdx? (fun j => j.arr == k.arr && j.strand == k.strand && j.sup && j.state != .faulted) front with
      | some i => i + 1
      | none => (front.findIdx? (fun j => j.arr == k.arr && j.state != .running)).getD f
    q.take i ++ [k] ++ q.drop i

/-- Acceptance: 32 commands per core. -/
def State.acceptAnalog (s : State) (op : AnaOp) (arr : Fin 4) (d : Reg) (regs : List Word64) : State :=
  let c := s.me.who.id.core
  let core := s.core c
  if 32 ≤ core.analog.length then s.wait .none
  else
    let cmd : AnaCmd := { n := s.nextId, strand := s.me.who.id, gang := s.me.who.gang, peer := s.me.who.peer, op, arr, d, regs, sup := s.me.tr.sup, row := 0
                          state := .queued }
    let s := (s.setCore c { core with analog := queueAnalog core.analog cmd }).accept 5
    (if op = .xcal then { s with me := s.me.mark d (.reply cmd.n) } else s).advance

/-- `xprog` (R395). -/
def execXprog (a : Reg) (n : Fin 4) (s : State) : Out :=
  .next (s.checked (Instr.xprog a n).wellFormed s.me.mayMatrix [a] (fun s =>
    let v := s.reg a
    let count := wordBits v 56 48 + 1
    let first := wordBits v 40 32
    let ofs := wordBits v 18 0
    let ea := BitVec.ofNat 64 ofs
    if wordBits v 62 57 ≠ 0 ∨ wordBits v 47 41 ≠ 0 ∨ wordBits v 31 19 ≠ 0 ∨ 512 < first + count then s.undefined
    else if ofs % 16 ≠ 0 then s.raiseTrap misalignedCause ea
    else if regionOf s.myCrew 3 < ofs + 512 * count then s.raiseTrap addressCause ea
    else s.acceptAnalog .xprog n 0 [v]))

/-- The fields of an `xmvm` (R396). -/
structure Mvm where
  n : Nat
  ia : Nat
  r : Nat
  nc : Nat
  c0 : Nat
  ob : Nat
  sx : Word32
  zero : Bool
  deriving DecidableEq, Repr

def mvmOf (r : List Word64) : Mvm :=
  let w (i : Nat) : Word64 := r.getD i 0
  { n := wordBits (w 0) 40 32 + 1, ia := wordBits (w 0) 18 0, r := wordBits (w 1) 34 32, nc := 32 * (wordBits (w 1) 27 24 + 1)
    c0 := 32 * wordBits (w 1) 19 16, ob := wordBits (w 1) 15 0, sx := (w 2).setWidth 32
    zero := wordBits (w 0) 63 41 == 0 && wordBits (w 0) 31 19 == 0 && wordBits (w 1) 63 35 == 0 && wordBits (w 1) 31 28 == 0 &&
      wordBits (w 1) 23 20 == 0 && wordBits (w 2) 63 32 == 0 }

/-- `xmvm` (R396). -/
def execXmvm (a : Reg) (n : Fin 4) (s : State) : Out :=
  .next (s.checked (Instr.xmvm a n).wellFormed s.me.mayMatrix (regNames a 3) (fun s =>
    let regs := s.regsFrom a 3
    let m := mvmOf regs
    if !m.zero || m.r = 7 || 512 < m.c0 + m.nc then s.undefined
    else if m.ia % 16 ≠ 0 then s.raiseTrap misalignedCause (BitVec.ofNat 64 m.ia)
    else if m.ob % 8 ≠ 0 then s.raiseTrap misalignedCause (BitVec.ofNat 64 m.ob)
    else if regionOf s.myCrew 3 < m.ia + m.n then s.raiseTrap addressCause (BitVec.ofNat 64 m.ia)
    else if regionOf s.myCrew 5 < m.ob + 8 * m.nc then s.raiseTrap addressCause (BitVec.ofNat 64 m.ob)
    else s.acceptAnalog .xmvm n 0 regs))

/-- `xtrim` (R398). -/
def execXtrim (n : Fin 4) (s : State) : Out :=
  .next (s.checked (Instr.xtrim n).wellFormed s.me.mayMatrix [] (fun s => s.acceptAnalog .xtrim n 0 []))

/-- `xcal` (R399). -/
def execXcal (d a : Reg) (n : Fin 4) (s : State) : Out :=
  .next (s.checked (Instr.xcal d a n).wellFormed s.me.mayMatrix [d, a] (fun s =>
    let v := s.reg a
    if 515 < wordBits v 9 0 ∨ wordBits v 63 10 ≠ 0 then s.undefined else s.acceptAnalog .xcal n d [v]))

/-! ## Execution -/

def State.array (s : State) (c : CoreId) (n : Fin 4) : Array4 := (s.core c).arrays[n]
def State.setArray (s : State) (c : CoreId) (n : Fin 4) (a : Array4) : State :=
  s.setCore c { s.core c with arrays := (s.core c).arrays.set n a }

/-- A recorded fault of the operation holds its array (R402). A failed `xtrim` has ended with the array not calibrated: from the moment its trap is taken,
what follows it meets that (R402, R408, R486). DEDUCED, unsafe: log 94. -/
def State.holdsArray (s : State) (k : AnaCmd) : Bool :=
  k.state == .faulted && (k.op != .xtrim || (s.strand k.strand).any (fun x => x.faults.any (fun f => f.op == k.n)))

/-- The command that an array executes: the oldest ahead of the first that `holds` it and that has not stopped itself (R394, R402). -/
def arrayHead (q : List AnaCmd) (n : Fin 4) (holds : AnaCmd → Bool) : Option AnaCmd :=
  ((q.filter (fun k => k.arr == n)).takeWhile (fun k => !holds k)).find? (fun k => k.state != .faulted)

/-- The command that an array works on: not in the drain of its gang (R407), and begun only when every scalar access before it is performed
(R314). -/
def State.analogHead (s : State) (c : CoreId) (n : Fin 4) : Option AnaCmd :=
  (arrayHead (s.core c).analog n s.holdsArray).filter (fun k => !s.drains k.gang && (k.state == .running || !s.commandHeld k.strand k.n k.sup))

def State.setAnalog (s : State) (c : CoreId) (k : AnaCmd) : State :=
  s.setCore c { s.core c with analog := (s.core c).analog.map (fun j => if j.n = k.n then k else j) }

def State.analogDone (s : State) (c : CoreId) (k : AnaCmd) : State :=
  (s.setCore c { s.core c with analog := (s.core c).analog.filter (fun j => j.n != k.n) }).modify k.strand (fun x => x.opDone k.n 0)

def AnaOp.code : AnaOp → Nat | .xprog => 0 | .xmvm => 1 | .xtrim => 2 | .xcal => 3

/-- A Drift or Array fault stops the operation and is recorded (R400, R401). -/
def State.analogFault (s : State) (c : CoreId) (k : AnaCmd) (cause : BitVec 8) (code refs : Nat) (ea : Word64) : State :=
  (s.setAnalog c { k with state := .faulted }).recordFault k.strand
    { op := k.n, cause, eaddr := ea, chunk := 0, lanes := 0
      status := BitVec.ofNat 64 (2 ^ 63 + code * 2 ^ 48 + k.op.code * 2 ^ 42 + k.arr.val * 2 ^ 40 + refs * 2 ^ 38) }

def driftCause : BitVec 8 := 0x18
def arrayCause : BitVec 8 := 0x19

/-- XPROG_EXECUTE: one row of the `xprog` at the head of an array's queue (R395). -/
def execXprogExecute (c : CoreId) (n : Fin 4) (s : State) : Out :=
  .next (match s.analogHead c n with
    | none => s
    | some k =>
      match k.op, s.crewOf k.gang k.peer with
      | .xprog, some crew =>
        let v := k.regs.getD 0 0
        let row := wordBits v 40 32 + k.row
        if s.bankWaits crew [(3, wordBits v 18 0 + 512 * k.row, 512)] then s
        else
        let bytes := crew.load 3 (wordBits v 18 0 + 512 * k.row) 512
        let a := s.array c n
        let a : Array4 := if k.row = 0 ∧ v.getLsbD 63 then { a with wmax := [], f := [] } else a
        let a := (bytes.zipIdx).foldl (fun (a : Array4) (p : Byte × Nat) => a.programCell s.fresh row p.2 (max (-31) (min 31 (byteInt p.1)))) a
        let s := { s.setArray c n a with fresh := s.fresh + 1 }
        if wordBits v 56 48 ≤ k.row then s.analogDone c k else s.setAnalog c { k with row := k.row + 1, state := .running }
      | _, _ => s)

/-- Writes the entries of a product to the bounded part, each whole. -/
def productEntries (crew : Crew) (p : Product) (a : Array4) (m : Mvm) (fresh : Nat) : Crew :=
  (List.range m.nc).foldl (fun (k : Crew) t =>
    let r := p.result a fresh (m.c0 + t)
    k.store 5 (m.ob + 8 * t) (leBytes 4 r.1 ++ leBytes 4 r.2)) crew

/-- XMVM_EXECUTE (R397). DEDUCED, unsafe: log 39. -/
def execXmvmExecute (c : CoreId) (n : Fin 4) (s : State) : Out :=
  .next (match s.analogHead c n with
    | none => s
    | some k =>
      match k.op, s.crewOf k.gang k.peer with
      | .xmvm, some crew =>
        let a := s.array c n
        let m := mvmOf k.regs
        let ea := BitVec.ofNat 64 m.ia
        if s.bankWaits crew [(3, m.ia, m.n), (5, m.ob, 8 * m.nc)] then s
        else
        let fresh := s.fresh
        let s := { s with fresh := fresh + 1 }
        if !a.valid then s.analogFault c k arrayCause 3 0 ea
        else if Config.parityError fresh then (s.setArray c n { a with valid := false }).analogFault c k arrayCause 4 0 ea
        else
          let p : Product := { xs := (crew.load 3 m.ia m.n).map byteInt, r := m.r, sx := m.sx }
          let d0 := p.deviation fresh 0
          let d1 := p.deviation fresh 1
          let a := { a with d0 := sat32 d0, d1 := sat32 d1 }
          if p.drifts d0 || p.drifts d1 then
            (s.setArray c n { a with dcount := min 65535 (a.dcount + 1) }).analogFault c k driftCause 1
              ((if p.drifts d0 then 1 else 0) + (if p.drifts d1 then 2 else 0)) ea
          else
            let s := s.modifyCrew k.gang k.peer (fun _ => productEntries crew p a m fresh)
            (s.setArray c n { a with ops := min 4294967295 (a.ops + 1) }).analogDone c k
      | _, _ => s)

/-- XTRIM_EXECUTE: the measured values are free; they are committed all at once (R398). DEDUCED, safe: log 40. -/
def execXtrimExecute (c : CoreId) (n : Fin 4) (s : State) : Out :=
  .next (match s.analogHead c n with
    | none => s
    | some k =>
      match k.op with
      | .xtrim =>
        let a := s.array c n
        let fresh := s.fresh
        let gt := Config.trimError fresh
        let good := decide (gt ≤ 192)
        let a : Array4 := { a with
          gc := (List.range 512).map (fun j => (j, Config.trimGain (fresh + j)))
          oc := (List.range 512).map (fun j => (j, Config.trimOffset (fresh + j)))
          t0 := Config.trimReading fresh, t1 := Config.trimReading (fresh + 1), ops := 0, valid := good
          gcode := if gt ≤ 447 then 64 + gt else Config.freeChoice fresh % 512 }
        let s := { s.setArray c n a with fresh := fresh + 512 }
        if good then s.analogDone c k else s.analogFault c k arrayCause 2 0 0
      | _ => s)

/-- XCAL_EXECUTE: the item is read, the register written, and the operation complete (R399). DEDUCED, unsafe: log 39. -/
def execXcalExecute (c : CoreId) (n : Fin 4) (s : State) : Out :=
  .next (match s.analogHead c n with
    | none => s
    | some k =>
      match k.op with
      | .xcal =>
        let a := s.array c n
        let fresh := s.fresh
        let s := { s with fresh := fresh + 1 }
        if Config.parityError fresh then (s.setArray c n { a with valid := false }).analogFault c k arrayCause 4 0 0
        else
          let s := s.modify k.strand (fun x => ((x.unmark (.reply k.n)).setReg s.nextId k.d (a.item (wordBits (k.regs.getD 0 0) 9 0))).wakeLoad)
          s.analogDone c k
      | _ => s)

/-- `sret` releases the faulted operation, which executes again from its start (R402). -/
def State.releaseAnalog (s : State) (c : CoreId) (n : Nat) : State :=
  s.setCore c { s.core c with analog := (s.core c).analog.map (fun k => if k.n = n then { k with state := .running } else k) }

end Sys2Proof.Machine
end

