-- ==== Sys2Proof/Machine/Candle.lean ====
section
/-! DEFINITION. Candles (R409–R418): bank ALUs and waves, the candle-only instructions, the lane instructions candles share with cores, and
the check of a program. -/

namespace Sys2Proof.Machine

/-! ## Bank ALUs (R410–R414) -/

/-- Where a local frame lies (R410): its pseudo-channel, bank, row group and subarray. -/
def frameChannel (f : Nat) : Nat := f % 64
def frameBank (f : Nat) : Nat := f / 64 % 32
def frameRowGroup (f : Nat) : Nat := f / 2048
def frameSubarray (f : Nat) : Nat := f / 262144

/-- The row of its bank that holds byte o of a frame, and the byte's column (R410). -/
def frameRow (f o : Nat) : Nat := 4 * frameRowGroup f + o / 1024
def frameColumn (o : Nat) : Nat := o % 1024 / 64

/-- The hidden zero row that each subarray holds (R410, R435). -/
def hiddenZeroRow : List Byte := List.replicate 1024 0

/-- A bank ALU at the start of a wave (R412), bound to a piece. -/
def Bank.fresh (p : Piece) : Bank :=
  { bank := frameBank p.frame, frame := p.frame, page := p.page / 65536 % 2 ^ 40, piece := p.index, c := Vector.replicate 16 (Vector.replicate 16 0)
    m := Vector.replicate 4 0, cur := 0xFFFF, stack := [], row := none, pos := 0 }

/-- k3 of a bank (R413). -/
def Bank.k3 (b : Bank) (pass : Nat) : Word64 := BitVec.ofNat 64 (b.page % 2 ^ 40 * 65536 + b.piece % 16 * 256 + pass % 64)

/-- The k slots a bank reads. -/
def Wave.slot (w : Wave) (b : Bank) (n : Fin 4) : Word64 := if n = 3 then b.k3 w.pass else w.k.getD n.val 0

/-- The lanes of a bank ALU. -/
def bankLanes : List (Fin 16) := List.finRange 16

/-- A position operand (R417): a k slot, the immediate or zero. -/
def Wave.position (w : Wave) (b : Bank) (a : Opnd) (w2 : Word32) : Nat :=
  match a with
  | .k n => (w.slot b n).toNat % 2 ^ 32
  | .imm => w2.toNat
  | _ => 0

/-- The local byte of a column of the open row (R410, R417). -/
def Bank.column (b : Bank) (v : Nat) : Option Nat := b.row.map (fun r => 4096 * b.frame + 1024 * r + 64 * (v % 16))

/-- The register image an operand supplies to a lane of a bank ALU. -/
def Wave.image (w : Wave) (b : Bank) (o : Opnd) (i : Fin 16) : Nat :=
  match o with
  | .v n => if h : n.val < 16 then (b.c[n.val][i]).toNat else 0
  | .k n => (w.slot b n).toNat
  | .lane => i.val
  | _ => 0

/-- The element an operand supplies. -/
def Wave.elem (w : Wave) (b : Bank) (f : LaneFields) (t : Ty) (o : Opnd) (i : Fin 16) : Nat :=
  match o with
  | .imm => immElem t f.w2
  | o => elemOf t (w.image b o i)

def Wave.word (w : Wave) (b : Bank) (f : LaneFields) (o : Opnd) (i : Fin 16) : Nat :=
  match o with
  | .imm => f.w2.toNat
  | o => w.image b o i % 2 ^ 32

/-- Writes results to a register in the lanes of cur. -/
def Bank.put (b : Bank) (o : Opnd) (vals : Fin 16 → Nat) : Bank :=
  match o with
  | .v n =>
    if h : n.val < 16 then
      { b with c := b.c.set n.val (Vector.ofFn (fun i : Fin 16 => if b.cur.getLsbD i.val then BitVec.ofNat 32 (vals i) else b.c[n.val][i])) }
    else b
  | _ => b

/-- The flags of the lanes of cur. -/
def Bank.gather (b : Bank) (fl : Fin 16 → Arith.Flags) : Arith.Flags :=
  bankLanes.foldl (fun (a : Arith.Flags) i => if b.cur.getLsbD i.val then a ||| fl i else a) 0

/-! ## Candle-only instructions (R416, R417) -/

/-- Changes every bank of the running wave. -/
def State.waveBanks (s : State) (f : Wave → Bank → Bank) : State := { s with wave := s.wave.map (fun w => { w with banks := w.banks.map (f w) }) }

/-- A candle-only instruction in a core's lane stream is Undefined (R113). -/
def State.candleOnly (s : State) (eff : State → State) : State :=
  if s.wave.isNone then s.laneTrap undefinedCause 0 s.me.run.em else eff s

def Bank.maskOf (b : Bank) (k : Fin 8) : BitVec 16 := if h : k.val < 4 then b.m[k.val] else 0

/-- `nif` (R416). -/
def execNif (k : Fin 8) (s : State) : Out :=
  .next (s.candleOnly (fun s => s.waveBanks (fun _ b => { b with stack := b.cur :: b.stack, cur := b.cur &&& b.maskOf k })))

/-- `nelse` (R416). -/
def execNelse (s : State) : Out :=
  .next (s.candleOnly (fun s => s.waveBanks (fun _ b => { b with cur := b.stack.headD 0 &&& ~~~b.cur })))

/-- `nendif` (R416). -/
def execNendif (s : State) : Out :=
  .next (s.candleOnly (fun s => s.waveBanks (fun _ b => { b with cur := b.stack.headD 0, stack := b.stack.tail })))

/-- `nact`: opens a row of each bound piece (R417). -/
def execNact (a : Opnd) (w2 : Word32) (s : State) : Out :=
  .next (s.candleOnly (fun s => s.waveBanks (fun w b => { b with row := some (w.position b a w2 / 16 % 4) })))

/-- `ncol`: words of a column of the open row into a register (R417). Candles bypass the controller's cipher, which is off (R496). -/
def execNcol (d a : Opnd) (w2 : Word32) (s : State) : Out :=
  .next (s.candleOnly (fun s => s.waveBanks (fun w b =>
    match b.column (w.position b a w2) with
    | some lo =>
      let bytes := s.localRead 0 w.chip lo 64
      b.put d (fun i => ofLe (slice bytes (4 * i.val) 4))
    | none => b)))

/-- One bank's column write: the words of the lanes of cur, as one access (R417). -/
def State.writeColumn (s : State) (w : Wave) (b : Bank) (lo : Nat) (src : Fin 16 → Nat) : State :=
  bankLanes.foldl (fun (s : State) i =>
    if b.cur.getLsbD i.val then s.localWrite 0 w.chip (lo + 4 * i.val) (leBytes 4 (src i)) else s) s

/-- `ncolw`: a register into words of a column of the open row (R417). -/
def execNcolw (a : Opnd) (c : BitVec 9) (s : State) : Out :=
  .next (s.candleOnly (fun s =>
    match s.wave with
    | none => s
    | some w => w.banks.foldl (fun (s : State) b =>
        match b.column (w.position b a 0) with
        | some lo => s.writeColumn w b lo (fun i => w.image b ((Opnd.ofCode c).getD .zero) i % 2 ^ 32)
        | none => s) s))

/-! ## Shared instructions (R415) -/

/-- What a shared instruction does in a lane. -/
inductive Shared where
  | elt (src : Ty) (op : Elt)
  | cmp
  | sel

/-- The meaning of a shared instruction: the element operations of the cores' entries. -/
def sharedOp : Instr → Option (LaneFields × Shared)
  | .vadd f => some (f, .elt f.ty (fp2 f.ty Arith.add))
  | .vsub f => some (f, .elt f.ty (fp2 f.ty Arith.sub))
  | .vmul f => some (f, .elt f.ty (fp2 f.ty Arith.mul))
  | .vfma f => some (f, .elt f.ty (fpFma f.ty))
  | .vmin f => some (f, .elt f.ty (fpMinMax f.ty false))
  | .vmax f => some (f, .elt f.ty (fpMinMax f.ty true))
  | .vabs f => some (f, .elt f.ty (fpAbs f.ty))
  | .vneg f => some (f, .elt f.ty (fpNeg f.ty))
  | .viadd f => some (f, .elt f.ty (intOp f.ty f.sat (fun a b _ => a + b)))
  | .visub f => some (f, .elt f.ty (intOp f.ty f.sat (fun a b _ => a - b)))
  | .vimul f => some (f, .elt f.ty (intOp f.ty f.sat (fun a b _ => a * b)))
  | .vimin f => some (f, .elt f.ty (intOp f.ty false (fun a b _ => min a b)))
  | .vimax f => some (f, .elt f.ty (intOp f.ty false (fun a b _ => max a b)))
  | .vand f => some (f, .elt f.ty (bitOp f.ty (· &&& ·)))
  | .vor f => some (f, .elt f.ty (bitOp f.ty (· ||| ·)))
  | .vxor f => some (f, .elt f.ty (bitOp f.ty (· ^^^ ·)))
  | .vnot f => some (f, .elt f.ty (bitOp f.ty (fun a _ => 2 ^ f.ty.width - 1 - a)))
  | .vshl f => some (f, .elt f.ty (bitOp f.ty (fun a b => a <<< (b % f.ty.width))))
  | .vshr f => some (f, .elt f.ty (fun _ a b _ => (Arith.intCode f.ty (Arith.intVal f.ty a / 2 ^ (b % f.ty.width)), 0)))
  | .vcmp f => some (f, .cmp)
  | .vsel f => some (f, .sel)
  | .vmov f => some (f, .elt f.ty (fun _ a _ _ => (a, 0)))
  | .vcvt f => some (f, .elt (f.cvtSrc.getD f.ty) (fun r a _ _ => Arith.convert (f.cvtSrc.getD f.ty) f.ty r a))
  | _ => none

/-- One lane of an elementwise instruction in a bank ALU; the packed form works on two 16-bit elements (R111). -/
def Wave.lane (w : Wave) (b : Bank) (f : LaneFields) (src : Ty) (op : Elt) (i : Fin 16) : Arith.Res :=
  let r : Arith.Rounding := ⟨Arith.modeOf false f.rm, 0⟩
  let c : Opnd := if f.usesImm then .zero else f.c.getD .zero
  if f.pk then
    let x := w.word b f f.a i
    let y := w.word b f f.b i
    let z := w.word b f c i
    let lo := op r (x % 65536) (y % 65536) (z % 65536)
    let hi := op r (x / 65536) (y / 65536) (z / 65536)
    (lo.1 % 65536 + 65536 * (hi.1 % 65536), lo.2 ||| hi.2)
  else
    let q := op r (w.elem b f src f.a i) (w.elem b f src f.b i) (w.elem b f src c i)
    (imageOf f.ty q.1, q.2)

/-- A shared instruction in one bank: the new bank and its flags. -/
def Wave.shared (w : Wave) (b : Bank) (f : LaneFields) : Shared → Bank × Arith.Flags
  | .elt src op => (b.put f.dst (fun i => (w.lane b f src op i).1), b.gather (fun i => (w.lane b f src op i).2))
  | .cmp =>
    let r (i : Fin 16) := compare f.ty f.cond.toNat (w.elem b f f.ty f.a i) (w.elem b f f.ty f.b i)
    let new : BitVec 16 := bankLanes.foldl (fun (m : BitVec 16) i => if (r i).1 then m ||| (1#16 <<< i.val) else m) 0
    ((if h : f.maskNo.val < 4 then { b with m := b.m.set f.maskNo.val ((b.m[f.maskNo.val] &&& ~~~b.cur) ||| (new &&& b.cur)) } else b),
      b.gather (fun i => (r i).2))
  | .sel =>
    (b.put f.dst (fun i => imageOf f.ty (w.elem b f f.ty (if (b.maskOf f.maskNo).getLsbD i.val then f.a else f.b) i)), 0)

/-- One instruction of a candle program on the running wave. -/
def State.candleStep (s : State) (word : BitVec 96) : State :=
  let out (o : Out) : State := match o with | .next t => t | _ => s
  match decodeCandleOnly word with
  | .ok (.nif k) => out (execNif k s)
  | .ok .nelse => out (execNelse s)
  | .ok .nendif => out (execNendif s)
  | .ok (.ncol d a w2) => out (execNcol d a w2 s)
  | .ok (.ncolw a c) => out (execNcolw a c s)
  | .ok (.nact a w2) => out (execNact a w2 s)
  | _ =>
    match decodeLane word, s.wave with
    | .ok i, some w =>
      match sharedOp i with
      | some (f, op) =>
        let rs := w.banks.map (fun b => w.shared b f op)
        { s with wave := some { w with banks := rs.map (·.1), flags := rs.foldl (fun (fl : Arith.Flags) r => fl ||| r.2) w.flags } }
      | none => s
    | _, _ => s

/-! ## The check of a program (R418) -/

/-- An operand a candle may name (R414). -/
def candleOpnd : Opnd → Bool
  | .v n => decide (n.val < 16)
  | .k _ | .imm | .lane | .zero => true
  | _ => false

def candleType (float int half : Bool) : Ty → Bool
  | .f32 => float
  | .bf16 => half
  | .i32 | .n32 => int
  | _ => false

/-- Opcode, type, operand codes and modifiers of R414–R417. -/
def candleLegal (word : BitVec 96) : Bool :=
  match decodeCandleOnly word with
  | .ok (.nif k) => decide (k.val < 4)
  | .ok (.ncol d _ _) => candleOpnd d
  | .ok (.ncolw _ c) => match Opnd.ofCode c with
    | some .imm => false
    | some o => candleOpnd o
    | none => false
  | .ok _ => true
  | .error _ =>
    match decodeLane word with
    | .error _ => false
    | .ok i =>
      match sharedOp i with
      | none => false
      | some (f, op) =>
        let types := match i with
          | .vadd _ | .vsub _ | .vmul _ | .vfma _ | .vmin _ | .vmax _ | .vabs _ | .vneg _ => candleType true false true f.ty
          | .vcmp _ => candleType true true false f.ty
          | .vsel _ | .vmov _ => candleType true true true f.ty
          | .vcvt _ => candleType true true true f.ty && candleType true true true (f.cvtSrc.getD f.ty)
          | _ => candleType false true false f.ty
        let operands := candleOpnd f.dst && candleOpnd f.a && candleOpnd f.b && (match i with | .vfma _ => candleOpnd (f.c.getD .zero) | _ => true)
        let mask := match op with | .elt _ _ => true | .cmp | .sel => decide (f.maskNo.val < 4)
        types && operands && mask && f.sel == 0 && !f.wb && !f.be && !f.sr

/-- The scan of a program: open `nif`s, innermost first, each with its index and whether its `nelse` was seen, and whether a row was opened.
The cause and index of the first error (R418). -/
def candleScan : List (BitVec 96) → Nat → List (Nat × Bool) → Bool → Option (Nat × Nat)
  | [], _, opened, _ => opened.head?.map (fun p => (0x03, p.1))
  | w :: rest, i, opened, act =>
    if !candleLegal w then some (0x02, i)
    else match decodeCandleOnly w with
      | .ok (.nif _) => if 4 ≤ opened.length then some (0x03, i) else candleScan rest (i + 1) ((i, false) :: opened) act
      | .ok .nelse =>
        match opened with
        | (j, false) :: up => candleScan rest (i + 1) ((j, true) :: up) act
        | _ => some (0x03, i)
      | .ok .nendif =>
        match opened with
        | _ :: up => candleScan rest (i + 1) up act
        | [] => some (0x03, i)
      | .ok (.ncol _ _ _) | .ok (.ncolw _ _) => if act then candleScan rest (i + 1) opened act else some (0x04, i)
      | .ok (.nact _ _) => candleScan rest (i + 1) opened true
      | _ => candleScan rest (i + 1) opened act

/-- The first program error: cause of R427 and instruction index. -/
def programError (ws : List (BitVec 96)) : Option (Nat × Nat) := candleScan ws 0 [] false

/-- The banks of a wave that have executed the fewest instructions: the sequencer sends each instruction to every bank of the wave before the
next (R411). -/
def Wave.behind (w : Wave) : List Bank := w.banks.filter (fun b => w.banks.all (fun c => decide (b.pos ≤ c.pos)))

/-- A wave has run its program once for each pass. -/
def Wave.ended (w : Wave) (len passes : Nat) : Bool := w.banks.all (fun b => decide (len * passes ≤ b.pos))

/-- A bank ALU executes its next instruction, in the pass that it has reached (R411): the wave after it. -/
def State.bankStep (s : State) (w : Wave) (b : Bank) (program : List (BitVec 96)) : State × Wave :=
  let t := ({ s with wave := some { w with pass := b.pos / program.length, banks := [b] } } : State).candleStep (program.getD (b.pos % program.length) 0)
  match t.wave with
  | some v =>
    ({ t with wave := s.wave }, { w with flags := v.flags, banks := w.banks.map (fun c => if c.bank = b.bank then { v.banks.headD b with pos := b.pos + 1 } else c) })
  | none => (t, w)

end Sys2Proof.Machine
end

