-- ==== Sys2Proof/Machine/Near.lean ====
section
/-! DEFINITION. Near memory (R419–R440): the commands `nlaunch`, `nred`, `nrow` and `nfence`, the two phases, reductions and faults. -/

namespace Sys2Proof.Machine

/-! ## Acceptance (R419, R429–R431, R434) -/

/-- A strand of role S (R152). -/
def Strand.mayNear (x : Strand) : Bool := x.who.role == 3

/-- A near-memory command of the strand with the turn. -/
def State.nearCmd (s : State) (op : NearOp) (regs : List Word64) (pol : Word32) : NearCmd :=
  { n := s.nextId, strand := s.me.who.id, gang := s.me.who.gang, op, regs, pol, asid := s.me.sy.asid, sup := s.me.tr.sup, after := s.me.nearFence
    stage := .queued, base := 0, pages := 0, program := [], leaves := [], pieces := [], waves := [], moves := [], granules := [], counted := [], flags := 0 }

/-- Acceptance: 16 commands per core. -/
def State.acceptNear (s : State) (op : NearOp) (regs : List Word64) (pol : Word32) : State :=
  let c := s.me.who.id.core
  let core := s.core c
  if 16 ≤ core.near.length then s.wait .none
  else ((s.setCore c { core with near := core.near ++ [s.nearCmd op regs pol] }).accept 6).advance

/-- A canonical address of this device. -/
def localVa (va : Word64) : Bool := canonical va && !aperture va

/-- The first address that fails a check. -/
def firstBad (bad : Word64 → Bool) (vas : List Word64) : Option Word64 := vas.find? bad

/-- Address, then Misaligned, over addresses with their alignments. -/
def State.nearAddresses (s : State) (vas : List (Word64 × Nat)) (eff : State → State) : State :=
  match vas.find? (fun p => !localVa p.1) with
  | some p => s.raiseTrap addressCause p.1
  | none =>
    match vas.find? (fun p => p.1.toNat % p.2 != 0) with
    | some p => s.raiseTrap misalignedCause p.1
    | none => eff s

/-- `nlaunch` (R419). -/
def execNlaunch (a b : Reg) (s : State) : Out :=
  .next (s.checked (Instr.nlaunch a b).wellFormed s.me.mayNear (regNames a 5 ++ [b]) (fun s =>
    let pol := (s.reg b).setWidth 32
    let regs := s.regsFrom a 5
    let w := regs.getD 1 0
    if !engineWord pol || wordBits w 63 46 ≠ 0 || wordBits w 31 8 ≠ 0 then s.undefined
    else s.nearAddresses [(regs.getD 0 0, 4)] (fun s => s.acceptNear .nlaunch regs pol)))

/-- Two byte ranges overlap. -/
def rangesMeet (a n b m : Nat) : Bool := decide (a < b + m) && decide (b < a + n)

/-- `nred` (R431). The source count is read from its register before the other registers are. -/
def execNred (a b : Reg) (s : State) : Out :=
  .next (s.checked (cmdRegs a 4) s.me.mayNear (regNames a 3 ++ [b]) (fun s =>
    let pol := (s.reg b).setWidth 32
    let w := s.reg (Fin.ofNat 64 (a.val + 2))
    let nsrc := wordBits w 34 32 + 1
    let len := wordBits w 31 0
    if 64 < a.val + 3 + nsrc then s.undefined
    else if s.pending (regNames a (3 + nsrc)) then s.stall (regNames a (3 + nsrc))
    else
      let regs := s.regsFrom a (3 + nsrc)
      let dst := (regs.getD 0 0).toNat
      let cw := (regs.getD 1 0).toNat
      let srcs := regs.drop 3
      let overlap := srcs.any (fun v => v.toNat != dst && rangesMeet dst len v.toNat len)
      let cwIn := (dst :: srcs.map BitVec.toNat).any (fun v => decide (v ≤ cw) && decide (cw + 8 ≤ v + len))
      if !engineWord pol || wordBits w 63 41 ≠ 0 || wordBits w 39 35 ≠ 0 || len = 0 || len % 256 ≠ 0 || overlap || cwIn then s.undefined
      else s.nearAddresses ([(regs.getD 0 0, 256), (regs.getD 1 0, 8)] ++ srcs.map (fun v => (v, 256)))
        (fun s => s.acceptNear .nred regs pol)))

/-- Two pages are congruent: every granule has the same home and slot rank in both (R434). -/
def State.congruent (s : State) (p q : Nat) : Bool :=
  (List.range 256).all (fun i => s.home (p + 256 * i) == s.home (q + 256 * i) && s.rank (p + 256 * i) == s.rank (q + 256 * i))

/-- The common part of `nrow` (R434). -/
def State.nrow (s : State) (ok copy : Bool) (a b : Reg) : State :=
  s.checked ok s.me.mayNear (regNames a 3 ++ [b]) (fun s =>
    let pol := (s.reg b).setWidth 32
    let regs := s.regsFrom a 3
    let dst := (regs.getD 0 0).toNat
    let src := (regs.getD 1 0).toNat
    let w := regs.getD 2 0
    let pages := wordBits w 15 0
    let apart := copy && (rangesMeet dst (65536 * pages) src (65536 * pages) ||
      (List.range pages).any (fun i => !s.congruent (dst + 65536 * i) (src + 65536 * i)))
    if !engineWord pol || wordBits w 63 16 ≠ 0 || pages = 0 || (!copy && src ≠ 0) || apart then s.undefined
    else s.nearAddresses ([(regs.getD 0 0, 65536)] ++ (if copy then [(regs.getD 1 0, 65536)] else []))
      (fun s => s.acceptNear (if copy then .nrowCopy else .nrowZero) regs pol))

/-- `nrow.zero`. -/
def execNrowZero (a b : Reg) (s : State) : Out := .next (s.nrow (Instr.nrowZero a b).wellFormed false a b)

/-- `nrow.copy`. -/
def execNrowCopy (a b : Reg) (s : State) : Out := .next (s.nrow (Instr.nrowCopy a b).wellFormed true a b)

/-- `nfence`: later commands begin after earlier ones have completed (R430). -/
def execNfence (s : State) : Out :=
  .next (s.checked Instr.nfence.wellFormed s.me.mayNear [] (fun s => ({ s with me := { s.me with nearFence := s.nextId } } : State).advance))

/-! ## Completion and faults (R424–R429, R438) -/

/-- Changes the strand that holds an operation, resident or saved. -/
def State.onOp (s : State) (n : Nat) (f : Strand → Strand) : State :=
  let g (x : Strand) : Strand := if x.ops.any (fun o => o.n == n) then f x else x
  let s := s.modifyAll (fun _ => true) g
  { s with fields := s.fields.map (fun (p : Field) => { p with saved := p.saved.map (fun (v : Saved) => { v with strands := v.strands.map g }) }) }

/-- Marks an operation complete on its strand. -/
def State.opComplete (s : State) (n : Nat) (fl : BitVec 5) : State := s.onOp n (fun x => x.opDone n fl)

/-- Some strand, resident or saved, still holds an operation. -/
def State.holdsOp (s : State) (n : Nat) : Bool :=
  let has (x : Strand) : Bool := x.ops.any (fun o => o.n == n)
  s.strands.any has || s.fields.any (fun p => p.saved.any (fun v => v.strands.any has))

def State.setNear (s : State) (c : CoreId) (k : NearCmd) : State :=
  s.setCore c { s.core c with near := (s.core c).near.map (fun j => if j.n = k.n then k else j) }

def State.dropNear (s : State) (c : CoreId) (n : Nat) : State :=
  s.setCore c { s.core c with near := (s.core c).near.filter (fun j => j.n != n) }

/-- L1 lines of a range on a core are invalidated, and fills on their way there. -/
def State.dropCoreL1 (s : State) (c : CoreId) (asid : BitVec 16) (lo hi : Nat) : State :=
  (s.setCore c { s.core c with l1 := (s.core c).l1.filter (fun l => !(l.asid == asid && inRange l.granule lo hi)) }).dropFills
    (fun a => a.strand.core == c && a.asid == asid && inRange (a.va.toNat / 256) lo hi)

/-- A command completes: the L1 lines of a range go on the core that accepted it and on the one where its gang's strands now are (R239), and the
operation is complete on its strand. -/
def State.nearDone (s : State) (c : CoreId) (k : NearCmd) (lo hi : Nat) : State :=
  let here := (s.strands.filter (fun x => x.ops.any (fun o => o.n == k.n))).map (fun x => x.who.id.core)
  (((c :: here).foldl (fun (s : State) e => s.dropCoreL1 e k.asid lo hi) s).dropNear c k.n).opComplete k.n k.flags

def nearCause : BitVec 8 := 0x20

def NearOp.kind : NearOp → Nat | .nlaunch => 0 | .nred => 1 | .nrowZero | .nrowCopy => 2

/-- A fault found in phase 1 (R425–R427). -/
structure NearFault where
  cause : Nat
  chip : Nat
  instr : Nat
  ea : Nat
  deriving DecidableEq, Repr

/-- The operation stops before phase 2 and its fault is recorded for its strand, resident or saved (R425, R438). One whose gang has ended is gone. -/
def State.nearFaulted (s : State) (c : CoreId) (k : NearCmd) (f : NearFault) : State :=
  if s.holdsOp k.n then
    (s.setNear c { k with stage := .faulted }).onOp k.n (fun x => x.withFault
      { op := k.n, cause := nearCause, eaddr := BitVec.ofNat 64 f.ea, chunk := 0, lanes := 0
        status := BitVec.ofNat 64 (2 ^ 63 + f.cause * 2 ^ 48 + k.op.kind * 2 ^ 46 + f.chip % 16 * 2 ^ 40 + f.instr % 256 * 2 ^ 32) })
  else s.dropNear c k.n

/-- A near-memory fault of the strand is recorded or being served (R429). -/
def Strand.nearStopped (x : Strand) : Bool :=
  x.faults.any (fun f => f.cause == nearCause) || (match x.serving with | some f => f.cause == nearCause | none => false)

/-- The commands of a strand that have not completed, on whatever core they were accepted (R438). -/
def State.nearOf (s : State) (x : Strand) : List NearCmd := s.cores.flatMap (fun e => e.2.near.filter (fun j => x.ops.any (fun o => o.n == j.n)))

/-- A command may begin phase 1 (R314, R429, R430): in acceptance order, at most four in execution, after an `nfence`'s commands, once the accesses
before it are performed, and while no fault of the strand is recorded. DEDUCED, unsafe: log 43. -/
def State.nearReady (s : State) (k : NearCmd) : Bool :=
  match s.strand k.strand with
  | none => false
  | some x =>
    let mine := s.nearOf x
    k.stage == .queued && mine.all (fun j => decide (k.n ≤ j.n) || j.stage != .queued) && decide ((mine.filter NearCmd.executing).length < 4) &&
      !mine.any (fun j => decide (j.n < k.after)) && !x.nearStopped && !s.commandHeld k.strand k.n k.sup

/-! ## Phase 1: pages (R421, R422, R432, R436) -/

/-- How a footprint uses a page. -/
inductive PageUse where
  | compute
  | redDst
  | redSrc
  | redWord
  | rowDst
  | rowSrc
  deriving DecidableEq, Repr

def PageUse.need : PageUse → Need
  | .compute | .redWord => needBoth
  | .redDst | .rowDst => needWrite
  | .redSrc | .rowSrc => needRead

def PageUse.reduces : PageUse → Bool | .redDst | .redSrc | .redWord => true | _ => false

/-- The cause that a leaf gives, if any (R422, R425); candles and row moves bypass the cipher, so they refuse an ASID whose key slot is on (R496). -/
def State.leafFault (s : State) (asid : BitVec 16) (u : PageUse) (sup : Bool) (e : Word64) : Option Nat :=
  if Leaf.isHost e then some 0x0A
  else if (Leaf.wen e || s.epoch asid != 0) && !u.reduces then some 0x0A
  else if !permits e u.need sup then some 0x09
  else if Leaf.disc e && !Leaf.att e && u != .redSrc && u != .rowSrc then some 0x08
  else none

/-- A page of a footprint: its use, and the first byte of the footprint in it and the one past the last. -/
abbrev Extent := PageUse × Nat × Nat

/-- The addresses that a chiplet answers for in a page's part of an extent: the page, and of a reduction its granules that have their home there
(R421, R432). -/
def State.addressesAt (s : State) (chip : Nat) (x : Extent) : List Nat :=
  if x.1.reduces then
    (x.2.1 :: (List.range (x.2.2 / 256 - x.2.1 / 256)).map (fun i => 256 * (x.2.1 / 256 + 1 + i))).filter (fun a => decide (a < x.2.2) && s.home a == chip)
  else [x.2.1]

/-- A chiplet translates a page of a footprint for itself (R250): the leaf, or the cause and VA of a fault; nothing of it when no granule has its
home there. -/
def State.nearPage (s : State) (chip : Nat) (asid : BitVec 16) (sup : Bool) (x : Extent) : State × Except (Nat × Nat) (Option Word64) :=
  match s.addressesAt chip x with
  | [] => (s, .ok none)
  | va :: rest =>
    match s.translate true chip asid va with
    | (s, .leaf e _) =>
      match s.leafFault asid x.1 sup e with
      | some c => (s, .error (c, va))
      | none =>
        match (if Leaf.wen e && !Leaf.disc e then (va :: rest).find? (fun a => (s.windowRun chip e false a).isNone) else none) with
        | some a => (s, .error (0x09, a))
        | none => (s, .ok (some e))
    | (s, _) => (s, .error (0x08, va))

/-- The pages of an extent. -/
def pagesOf (u : PageUse) (va n : Nat) : List Extent :=
  (List.range ((va % 65536 + n + 65535) / 65536)).map (fun i =>
    let p := va / 65536 * 65536 + 65536 * i
    (u, max va p, min (va + n) (p + 65536)))

/-- A fault of a chiplet: cause, VA, chiplet. -/
abbrev FootFault := Nat × Nat × Nat

/-- The fault that the issuing core takes of two: the one of lowest VA, and of one address the lowest-numbered chiplet's (R425, R426). -/
def lowerFault (a b : Option FootFault) : Option FootFault :=
  match a, b with
  | some x, some y => some (if y.2.1 < x.2.1 || (y.2.1 == x.2.1 && decide (y.2.2 < x.2.2)) then y else x)
  | some x, none => some x
  | none, y => y

/-- Translates pages of a footprint at chiplets: the leaves by chiplet and page, and the fault to report. -/
def State.nearPages (s : State) (asid : BitVec 16) (sup : Bool) (acc : List (Nat × Nat × Word64)) (bad : Option FootFault) :
    List (Nat × Extent) → State × List (Nat × Nat × Word64) × Option FootFault
  | [] => (s, acc, bad)
  | (chip, x) :: rest =>
    match s.nearPage chip asid sup x with
    | (s, .ok (some e)) => s.nearPages asid sup (acc ++ [(chip, x.2.1 / 65536 * 65536, e)]) bad rest
    | (s, .ok none) => s.nearPages asid sup acc bad rest
    | (s, .error f) => s.nearPages asid sup acc (lowerFault bad (some (f.1, f.2, chip))) rest

/-- What a read of a command at device scope gives (R418, R420). -/
inductive NearRead where
  | bytes (bs : List Byte)
  | fault (ea : Nat)
  | wait
  deriving DecidableEq, Repr

/-- Reads segments for a command with its policy; a host leaf without a completion waits for the host. -/
def State.nearRead (s : State) (k : NearCmd) (need : Need) (acc : List Byte) : List (Nat × Nat) → State × NearRead
  | [] => (s, .bytes acc)
  | (a, n) :: rest =>
    if !localVa (BitVec.ofNat 64 a) then (s, .fault a)
    else match s.homeFull a k.asid need k.sup k.pol n (fun _ => none) with
      | (s, .done bs _ _ _) => s.nearRead k need (acc ++ bs) rest
      | (s, .fault _) => (s, .fault a)
      | (s, .host true) => (s, .wait)
      | (s, _) =>
        match s.askHostFor k.strand k.gang k.asid a k.sup need with
        | (s, some _) => (s, .fault a)
        | (s, none) => (s, .wait)

/-- The affinity range of an `nlaunch` (R420). -/
inductive Affinity where
  | range (base len : Nat)
  | fault (ea : Nat)
  | wait
  deriving DecidableEq, Repr

def State.affinity (s : State) (k : NearCmd) : State × Affinity :=
  match s.fieldOf k.gang with
  | none => (s, .fault 0)
  | some f =>
    let given := wordBits (k.regs.getD 1 0) 7 0
    let i := if given = 0 then f.aff.toNat else given
    if i = 0 then (s, .fault 0)
    else
      let ea := (f.args.toNat + 16 * (i - 1)) % 2 ^ 64
      match s.nearRead k needRead [] (segments 3 ea 16) with
      | (s, .bytes bs) =>
        let base := ofLe (slice bs 0 8)
        let len := ofLe (slice bs 8 8)
        let ok := localVa (BitVec.ofNat 64 base) && base % 65536 == 0 && len % 65536 == 0 && decide (65536 ≤ len) && decide (len ≤ 2 ^ 40)
        (s, if ok then .range base len else .fault ea)
      | (s, .fault _) => (s, .fault ea)
      | (s, .wait) => (s, .wait)

/-- The footprint of a command. -/
def footprint (k : NearCmd) (base len : Nat) : List Extent :=
  let r (i : Nat) : Nat := (k.regs.getD i 0).toNat
  let n := wordBits (k.regs.getD 2 0) 31 0
  match k.op with
  | .nlaunch => pagesOf .compute base len
  | .nred => pagesOf .redDst (r 0) n ++ pagesOf .redWord (r 1) 8 ++ (k.regs.drop 3).flatMap (fun v => pagesOf .redSrc v.toNat n)
  | .nrowZero => pagesOf .rowDst (r 0) (65536 * (n % 65536))
  | .nrowCopy => pagesOf .rowDst (r 0) (65536 * (n % 65536)) ++ pagesOf .rowSrc (r 1) (65536 * (n % 65536))

/-- Each live chiplet with each page of a footprint. -/
def State.allPages (s : State) (fp : List Extent) : List (Nat × Extent) := s.ddb.chips.flatMap (fun m => fp.map (fun x => (m, x)))

/-- Granules of the issuing gang's GAU lines in the ranges of a footprint. -/
def inFootprint (fp : List Extent) (granule : Nat) : Bool :=
  fp.any (fun p => decide (p.2.1 < granule * 256 + 256) && decide (granule * 256 < p.2.2))

/-- The destination granules of an `nred`, each with its home. -/
def State.redGranules (s : State) (k : NearCmd) : List (Nat × Nat) :=
  let dst := (k.regs.getD 0 0).toNat
  (List.range (wordBits (k.regs.getD 2 0) 31 0 / 256)).map (fun i => (s.home (dst + 256 * i), 256 * i))

/-- A granule whose walk a chiplet that has to translate a page of a footprint must wait for: each of its walkers is busy (R250). -/
def State.nearBusy (s : State) (asid : BitVec 16) (fp : List Extent) : Option Nat :=
  (s.ddb.chips.filter (fun m => decide (512 ≤ (s.walkers m).length))).findSome? (fun m =>
    fp.findSome? (fun x =>
      if (s.addressesAt m x).isEmpty || (s.tlbFind m asid x.2.1).isSome then none
      else ((List.range 256).map (fun i => x.2.1 / 65536 * 65536 + 256 * i)).find? (fun a => s.home a == m)))

/-- The rest of phase 1 once the range is known: every live chiplet translates, then the gang's GAU lines are written back (R287, R421, R432).
The slices of an `nred` begin at once. -/
def State.nearTranslate (s : State) (c : CoreId) (k : NearCmd) (base len : Nat) (program : List (BitVec 96)) : State :=
  let fp := footprint k base len
  match s.nearBusy k.asid fp with
  | some va => s.queueWalk k.asid va
  | none =>
  match s.nearPages k.asid k.sup [] none (s.allPages fp) with
  | (s, _, some (cause, va, chip)) => s.nearFaulted c k { cause, chip, instr := 0, ea := va }
  | (s, leaves, none) =>
    let dst := fp.filter (fun p => p.1 == .redDst)
    let mine (ps : List Extent) (l : GauLine) : Bool := l.gang == k.gang && l.asid == k.asid && inFootprint ps l.granule
    let die := ((s.gangOf k.gang).map (fun g => g.die)).getD c.die
    let s := match k.op with
      | .nred => (s.gauWriteBack die false (mine fp)).gauWriteBack die true (mine dst)
      | _ => s.gauWriteBack die true (mine fp)
    s.setNear c { k with stage := if k.op == .nred then .running else .agreed, base := BitVec.ofNat 64 base, pages := len / 65536, program, leaves
                         granules := if k.op == .nred then s.redGranules k else [] }

/-- Phase 1 of an `nlaunch` reads and checks the program, alike on every chiplet (R418, R425). -/
def State.nearProgram (s : State) (c : CoreId) (k : NearCmd) (base len : Nat) : State :=
  let lowest := s.ddb.chips.foldl min (s.ddb.chips.headD 0)
  let code := (k.regs.getD 0 0).toNat
  let count := wordBits (k.regs.getD 1 0) 39 32 + 1
  match s.nearRead k needFetch [] (segments (count / 20 + 3) code (12 * count)) with
  | (s, .wait) => s
  | (s, .fault ea) => s.nearFaulted c k { cause := 0x05, chip := lowest, instr := 0, ea }
  | (s, .bytes bs) =>
    let ws := laneWordsOf bs count
    match programError ws with
    | some (cause, i) => s.nearFaulted c k { cause, chip := lowest, instr := i, ea := code + 12 * i }
    | none => s.nearTranslate c k base len ws

/-- NEAR_PHASE_1: a command begins when it may; its phase 1 then ends in the agreement of every live chiplet or in a fault, at once or when the
host has answered (R421, R425, R432, R436). -/
def execNearPhase1 (c : CoreId) (n : Nat) (s : State) : Out :=
  .next (match (s.core c).near.find? (fun k => k.n == n) with
    | none => s
    | some k =>
      if k.stage = .queued then (if s.nearReady k then s.setNear c { k with stage := .checking } else s)
      else if k.stage ≠ .checking then s
      else match k.op with
        | .nlaunch =>
          match s.affinity k with
          | (s, .wait) => s
          | (s, .fault ea) => s.nearFaulted c k { cause := 0x01, chip := s.ddb.chips.foldl min (s.ddb.chips.headD 0), instr := 0, ea }
          | (s, .range base len) => s.nearProgram c k base len
        | _ => s.nearTranslate c k 0 0 [])

/-! ## Phase 2 of an `nlaunch` (R411, R421, R423, R429) -/

/-- Revives the attached discarded pages among some (R261, R422). -/
def State.revivePages (s : State) (asid : BitVec 16) (leaves : List (Nat × Nat × Word64)) : State :=
  let pages := ((leaves.filter (fun p => Leaf.disc p.2.2 && Leaf.att p.2.2)).map (fun p => p.2.1)).eraseDups
  pages.foldl (fun (s : State) p => (s.revive asid p).1) s

/-- The candle that drives a piece's bank. -/
def Piece.candle (p : Piece) : Nat × Nat := (p.chip, frameChannel p.frame)

/-- The commands that wait for their turn on a candle. -/
def State.candleTurns (s : State) (q : Nat × Nat) : List Nat := Table.get (s.chip q.1).candles q.2 []
def State.setTurns (s : State) (q : Nat × Nat) (l : List Nat) : State :=
  s.setChip q.1 { s.chip q.1 with candles := Table.put (s.chip q.1).candles q.2 l }

/-- Phase 2 of an `nlaunch` begins: the lines of the range leave the LLCs, and the field's candle strands take their turns (R421, R429). -/
def State.beginCandles (s : State) (c : CoreId) (k : NearCmd) : State :=
  let lo := k.base.toNat
  let s := s.revivePages k.asid k.leaves
  let s := s.ddb.chips.foldl (fun (s : State) m => s.dropLines m true (fun l => l.asid == k.asid && inRange l.granule lo (lo + 65536 * k.pages))) s
  let pieces : List Piece := k.leaves.flatMap (fun p => (List.range s.span).map (fun j => { chip := p.1, page := p.2.1, frame := Leaf.frame p.2.2 + j, index := j }))
  let s := (pieces.map Piece.candle).eraseDups.foldl (fun (s : State) q => s.setTurns q (s.candleTurns q ++ [k.n])) s
  s.setNear c { k with stage := .running, pieces }

/-- Candles that may begin a wave of a command: a piece is left there, the turn is the command's, and no wave of it is in progress. -/
def State.openCandles (s : State) (k : NearCmd) : List (Nat × Nat) :=
  (k.pieces.map Piece.candle).eraseDups.filter (fun q => (s.candleTurns q).head? == some k.n && !k.waves.any (fun w => (w.chip, w.channel) == q))

/-- The pieces that a wave binds: any choice of those left at the candle, one to a bank, and at least one (R411). -/
def bindPieces (free : Nat) (ps : List Piece) : List Piece :=
  match ps.zipIdx.foldl (fun (acc : List Piece) e =>
    if Config.freeChoice (free + e.2) % 2 = 1 && !acc.any (fun p => frameBank p.frame == frameBank e.1.frame) then acc ++ [e.1] else acc) [] with
  | [] => ps.take 1
  | chosen => chosen

/-- A candle begins a wave of a command. -/
def State.beginWave (s : State) (c : CoreId) (k : NearCmd) (q : Nat × Nat) : State :=
  let here := k.pieces.filter (fun p => p.candle == q)
  let chosen := bindPieces s.fresh here
  let w : Wave := { chip := q.1, channel := q.2, asid := k.asid, k := k.regs.drop 2, pass := 0, banks := chosen.map Bank.fresh, flags := 0 }
  ({ s with fresh := s.fresh + here.length } : State).setNear c { k with waves := k.waves ++ [w], pieces := k.pieces.filter (fun p => !chosen.contains p) }

/-- One bank ALU executes its next instruction; with the last of its wave, the candle takes the next field's wave in turn (R429). DEDUCED, unsafe:
log 44. -/
def State.stepWave (s : State) (c : CoreId) (k : NearCmd) (w : Wave) (b : Bank) : State :=
  let passes := wordBits (k.regs.getD 1 0) 45 40 + 1
  match s.bankStep w b k.program with
  | (s, v) =>
    if v.ended k.program.length passes then
      let q := (v.chip, v.channel)
      let left := k.pieces.any (fun p => p.candle == q)
      let s := s.setTurns q ((s.candleTurns q).tail ++ (if left then [k.n] else []))
      (s.countEvent (8 + v.chip) 5).setNear c { k with waves := k.waves.filter (fun u => !(u.chip == w.chip && u.channel == w.channel)), flags := k.flags ||| v.flags }
    else s.setNear c { k with waves := k.waves.map (fun u => if u.chip = w.chip ∧ u.channel = w.channel then v else u) }

/-- One step of the candles of an `nlaunch`: a wave begins or a bank ALU executes an instruction, whichever comes next; when no piece is left the
operation completes. -/
def State.runCandles (s : State) (c : CoreId) (k : NearCmd) : State :=
  let begins := s.openCandles k
  let banks := k.waves.flatMap (fun w => w.behind.map (fun b => (w, b)))
  if k.pieces.isEmpty && k.waves.isEmpty then s.nearDone c k k.base.toNat (k.base.toNat + 65536 * k.pages)
  else
    let i := Config.freeChoice s.fresh % (begins.length + banks.length)
    let s := { s with fresh := s.fresh + 1 }
    match begins[i]?, banks[i - begins.length]? with
    | some q, _ => s.beginWave c k q
    | none, some (w, b) => s.stepWave c k w b
    | none, none => s

/-! ## Phase 2 of an `nrow` (R423, R435, R436) -/

/-- A row transfer can move a frame to another: both share pseudo-channel, bank and subarray (R435). -/
def rowPath (fd fs : Nat) : Bool :=
  frameChannel fd == frameChannel fs && frameBank fd == frameBank fs && frameSubarray fd == frameSubarray fs

/-- The accesses that move one piece: rows by row transfer, and otherwise columns through the base-die buffer. -/
def pieceMoves (chip fd : Nat) (src : Option Nat) : List RowMove :=
  match src with
  | none => (List.range 4).map (fun r => { chip, dst := 4096 * fd + 1024 * r, src := none, bytes := 1024 })
  | some fs =>
    let n := if rowPath fd fs then 1024 else 64
    (List.range (4096 / n)).map (fun i => { chip, dst := 4096 * fd + n * i, src := some (4096 * fs + n * i), bytes := n })

/-- Phase 2 of an `nrow` begins: source lines are written back, destination lines invalidated, and the accesses of phase 2 find no line of either
(R423, R436). A discarded source reads as zeros. -/
def State.beginRows (s : State) (c : CoreId) (k : NearCmd) : State :=
  let pages := wordBits (k.regs.getD 2 0) 15 0
  let lo := (k.regs.getD 0 0).toNat
  let slo := (k.regs.getD 1 0).toNat
  let leafAt (m va : Nat) : Option Word64 := (k.leaves.find? (fun p => p.1 == m && p.2.1 == va)).map (fun p => p.2.2)
  let s := s.revivePages k.asid (k.leaves.filter (fun p => decide (lo ≤ p.2.1) && decide (p.2.1 < lo + 65536 * pages)))
  let s := s.ddb.chips.foldl (fun (s : State) m =>
    let source (l : LlcLine) : Bool := k.op == .nrowCopy && l.asid == k.asid && inRange l.granule slo (slo + 65536 * pages)
    (s.dropLines m true source).dropLines m false (fun l => l.asid == k.asid && inRange l.granule lo (lo + 65536 * pages))) s
  let moves : List RowMove := s.ddb.chips.flatMap (fun m => (List.range pages).flatMap (fun i =>
    match leafAt m (lo + 65536 * i) with
    | none => []
    | some d =>
      let src := (if k.op == .nrowCopy then leafAt m (slo + 65536 * i) else none).bind (fun e => if Leaf.disc e then none else some (Leaf.frame e))
      (List.range s.span).flatMap (fun j => pieceMoves m (Leaf.frame d + j) (src.map (fun f => f + j)))))
  s.setNear c { k with stage := .running, moves }

/-- One move; both paths bypass the controller's cipher, which is off (R496). -/
def State.moveRow (s : State) (v : RowMove) : State :=
  s.localWrite 0 v.chip v.dst (match v.src with | some a => s.localRead 0 v.chip a v.bytes | none => hiddenZeroRow)

/-- One step of an `nrow`: any of the moves left; after the last, the copies of the destination go and the operation completes. -/
def State.runRows (s : State) (c : CoreId) (k : NearCmd) : State :=
  let lo := (k.regs.getD 0 0).toNat
  let hi := lo + 65536 * wordBits (k.regs.getD 2 0) 15 0
  match k.moves[Config.freeChoice s.fresh % k.moves.length]? with
  | some v => (({ s with fresh := s.fresh + 1 } : State).moveRow v).setNear c { k with moves := k.moves.filter (fun u => u != v) }
  | none =>
    let s := { s with gau := s.gau.map (fun (e : Fin 8 × List GauLine) => (e.1, e.2.filter (fun l => !(l.gang == k.gang && l.asid == k.asid && inRange l.granule lo hi)))) }
    s.nearDone c k lo hi

/-- NEAR_PHASE_2: an `nlaunch` or `nrow` that every chiplet agreed to begins, or goes on by one access at a bank (R421, R423). An `nred` goes on
chiplet by chiplet. -/
def execNearPhase2 (c : CoreId) (n : Nat) (s : State) : Out :=
  .next (match (s.core c).near.find? (fun k => k.n == n) with
    | none => s
    | some k =>
      match k.op, k.stage with
      | .nlaunch, .agreed => s.beginCandles c k
      | .nlaunch, .running => s.runCandles c k
      | .nrowZero, .agreed | .nrowCopy, .agreed => s.beginRows c k
      | .nrowZero, .running | .nrowCopy, .running => s.runRows c k
      | _, _ => s)

/-! ## Reduction (R78, R431–R433) -/

/-- A node of the tree of R78; absent operands pass the other through. -/
def sumNode (a b : Option Arith.Res) : Option Arith.Res :=
  match a, b with
  | some x, some y =>
    let r := Arith.add Arith.f32 Arith.nearest (Arith.f32.val x.1) (Arith.f32.val y.1)
    some (r.1, r.2 ||| x.2 ||| y.2)
  | some x, none => some x
  | none, y => y

/-- The sum of up to eight sources, as binary32 codes. -/
def sumTree (xs : List Nat) : Arith.Res :=
  let x (i : Nat) : Option Arith.Res := xs[i]?.map (fun v => (v, (0 : Arith.Flags)))
  (sumNode (sumNode (sumNode (x 0) (x 1)) (sumNode (x 2) (x 3))) (sumNode (sumNode (x 4) (x 5)) (sumNode (x 6) (x 7)))).getD (0, 0)

/-- One element of an `nred` (R78). -/
def reduceElem (bf : Bool) (xs : List Nat) : Arith.Res :=
  if bf then
    let t := sumTree (xs.map (fun v => v * 65536))
    let r := Arith.cvtFloat Arith.f32 Arith.bf16 Arith.nearest (Arith.f32.val t.1)
    (r.1, r.2 ||| t.2)
  else sumTree xs

/-- The result granule of source granules. -/
def reduceGranule (bf : Bool) (srcs : List (List Byte)) : List Byte × Arith.Flags :=
  let n := if bf then 2 else 4
  let es := (List.range (256 / n)).map (fun i => reduceElem bf (srcs.map (fun g => ofLe (slice g (n * i) n))))
  (es.flatMap (fun e => leBytes n e.1), es.foldl (fun (f : Arith.Flags) e => f ||| e.2) 0)

/-- An access of phase 2 at its home, with the translation that the home kept of phase 1 (R439): the TLB's own entry of the page stands again after it,
unless a revival of the page has taken both away. -/
def State.heldApply (s : State) (k : NearCmd) (va : Nat) (need : Need) (upd : List Byte → Option (List Byte)) : State × HomeOut :=
  let chip := s.home va
  let page (t : TlbEntry) : Bool := t.page == va / 65536 && t.asid == k.asid
  match k.leaves.find? (fun p => p.1 == chip && p.2.1 == va / 65536 * 65536) with
  | none => s.homeFull va k.asid need k.sup k.pol 256 upd
  | some (_, _, e) =>
    match (s.tlbFill chip k.asid va e false none).homeFull va k.asid need k.sup k.pol 256 upd with
    | (u, r) =>
      let c := u.chip chip
      if (u.tlbFind chip k.asid va).any (fun t => t.leaf == e) then
        (u.setChip chip { c with tlb := (s.tlbFind chip k.asid va).toList ++ c.tlb.filter (fun t => !page t) }, r)
      else (u, r)

/-- A whole granule read at its home at device scope. -/
def State.granuleRead (s : State) (k : NearCmd) (va : Nat) : State × List Byte :=
  match s.heldApply k va needRead (fun _ => none) with
  | (s, .done bs _ _ _) => (s, bs)
  | (s, _) => (s, zeroGranule)

def State.granulesRead (s : State) (k : NearCmd) (acc : List (List Byte)) : List Nat → State × List (List Byte)
  | [] => (s, acc)
  | va :: rest => match s.granuleRead k va with
    | (s, g) => s.granulesRead k (acc ++ [g]) rest

/-- Reduces the destination granule at an offset, on its home: one write of 256 bytes; the flags raised (R432). -/
def State.reduceAt (s : State) (k : NearCmd) (chip o : Nat) : State × Arith.Flags :=
  match s.granulesRead k [] ((k.regs.drop 3).map (fun v => v.toNat + o)) with
  | (s, srcs) =>
    let g := reduceGranule ((k.regs.getD 2 0).getLsbD 40) srcs
    (((s.countEvent (8 + chip) 6).heldApply k ((k.regs.getD 0 0).toNat + o) needWrite (fun _ => some g.1)).1, g.2)

/-- NRED_REDUCE: one chiplet reduces one of its granules that are left; after the last it adds 1 to the completion word; when every chiplet has, the issuing
core's lines of the destination go and the operation completes (R432, R433). The release of a completion word writes back no GAU line
beyond those of the footprint, which phase 1 wrote back: R287 speaks of the gang's dirty lines, R432 of the footprint's. DESIGN CHOICE, unsafe:
log 105. -/
def execNredReduce (c : CoreId) (n : Nat) (chip : Nat) (s : State) : Out :=
  .next (match (s.core c).near.find? (fun k => k.n == n) with
    | none => s
    | some k =>
      let dst := (k.regs.getD 0 0).toNat
      if k.op ≠ .nred ∨ k.stage ≠ .running ∨ chip ∉ s.ddb.chips then s
      else if s.ddb.chips.all k.counted.contains then s.nearDone c k dst (dst + wordBits (k.regs.getD 2 0) 31 0)
      else if chip ∈ k.counted then s
      else
        let left := k.granules.filter (fun g => g.1 == chip)
        match left[Config.freeChoice s.fresh % left.length]? with
        | some g =>
          match ({ s with fresh := s.fresh + 1 } : State).reduceAt k chip g.2 with
          | (s, fl) => s.setNear c { k with granules := k.granules.filter (fun h => h != g), flags := k.flags ||| fl }
        | none =>
          (s.homeRmw (k.regs.getD 1 0).toNat k.asid k.sup 8 (fun v => v + 1) k.pol).1.setNear c { k with counted := chip :: k.counted })

/-- `sret` releases a faulted operation, which executes again from phase 1 (R428). DEDUCED, unsafe: log 77. -/
def State.releaseNear (s : State) (n : Nat) : State :=
  s.mapCores (fun c => { c with near := c.near.map (fun k => if k.n = n then { k with stage := .checking } else k) })

/-- The footprint of a command in execution; that of an `nlaunch` in phase 1 lies in the range that it will read. -/
def State.nearFootprint (s : State) (k : NearCmd) : List Extent :=
  if k.op == .nlaunch && k.stage == .checking then (match (s.affinity k).2 with | .range base len => footprint k base len | _ => [])
  else footprint k k.base.toNat (65536 * k.pages)

/-- A near-memory operation in execution covers part of a range of an ASID (R439). -/
def State.nearCovers (s : State) (asid : BitVec 16) (lo hi : Nat) : Bool :=
  s.cores.any (fun e => e.2.near.any (fun k => k.executing && k.asid == asid &&
    (s.nearFootprint k).any (fun p => decide (p.2.1 < hi) && decide (lo < p.2.2))))

/-- What a shootdown that waits for near-memory operations does at once: translations of the range leave the TLBs, so that an operation in phase 1
translates again (R256, R439). -/
def State.dropTlbs (s : State) (asid : BitVec 16) (lo hi : Nat) : State :=
  s.ddb.chips.foldl (fun (s : State) c => s.setChip c { s.chip c with tlb := (s.chip c).tlb.filter (fun t => !(t.asid == asid && t.meets lo hi)) }) s

end Sys2Proof.Machine
end

