-- ==== Sys2Proof/Machine/System.lean ====
section
/-! DEFINITION. System registers (R66, R73, R176–R183, R197, R202, R338–R340, R354–R426, R454–R456, R474, R533), `trap`, `brk`, `sret`, `halt`
and `halt.gang` (R453, R465, R475, R476). -/

namespace Sys2Proof.Machine

/-! ## Reading (R474) -/

/-- Four counts, 16 bits each, the first lowest. -/
def counts4 (a b c d : Nat) : Word64 := BitVec.ofNat 64 (a % 65536 + b % 65536 * 2 ^ 16 + c % 65536 * 2 ^ 32 + d % 65536 * 2 ^ 48)

/-- STATUS (R455). DEDUCED, unsafe: log 26. -/
def Strand.status (x : Strand) : Word64 :=
  let defer : Bool := !x.faults.isEmpty || x.sch.starving
  BitVec.ofNat 64 (x.tr.held % 16 * 4096 + x.replay.length % 16 * 256 + (if defer then 4 else 0) + (if x.tr.lane then 2 else 0) +
    (if x.tr.sup then 1 else 0))

/-- PRIO (R183). -/
def Strand.prioWord (x : Strand) : Word64 :=
  BitVec.ofNat 64 (x.sch.paused.toNat * 65536 + (if x.sch.paused = 0 then 0 else 4) + x.sy.prio.toNat)

/-- WICK (R175). -/
def Strand.wickWord (x : Strand) : Word64 :=
  BitVec.ofNat 64 ((if x.sy.hien then 2 ^ 63 else 0) + x.sy.hi.toNat * 65536 + x.sy.lo.toNat)

/-- The value of a system register of the strand with the turn; none for a number that no chapter assigns (R454, R474). -/
def State.sysRead (s : State) (r : Nat) : Option Word64 :=
  let x := s.me
  match r with
  | 0x001 => some x.sy.lcb
  | 0x002 => some (x.sy.asid.setWidth 64)
  | 0x003 => some x.status
  | 0x004 => some x.fieldid
  | 0x005 => some x.gangxy
  | 0x006 => some x.corexy
  | 0x007 => some x.strandid
  | 0x008 => some x.tr.tvec
  | 0x009 => some (x.tr.ecause.setWidth 64)
  | 0x00A => some x.tr.eaddr
  | 0x00B => some x.tr.espc
  | 0x00C => some x.tr.elpc
  | 0x010 => some x.prioWord
  | 0x011 => some x.wickWord
  | 0x012 => some (x.sy.blkt.setWidth 64)
  | 0x014 => some x.tr.eem[0]
  | 0x015 => some x.tr.eem[1]
  | 0x016 => some x.tr.eem[2]
  | 0x018 => some (maskPart x.tr.emask 0)
  | 0x019 => some (maskPart x.tr.emask 1)
  | 0x01A => some (maskPart x.tr.emask 2)
  | 0x01C => some (maskPart x.tr.edone 0)
  | 0x01D => some (maskPart x.tr.edone 1)
  | 0x01E => some (maskPart x.tr.edone 2)
  | 0x020 => some (match s.myCrew with | some c => (c.qbase.setWidth 64) <<< 10 | none => 0)
  | 0x030 => some (counts4 (x.count 0) (x.count 1) (x.count 2) (x.count 3))
  | 0x031 => some (counts4 (x.count 4) (x.count 5) (x.count 6) (x.count 7))
  | 0x034 => some x.en.cpyfs
  | 0x035 => some x.en.cpyck
  | 0x038 => some ((if s.ownsDme then 0x8000000000000000#64 else 0) ||| x.en.mstat.setWidth 64)
  | 0x039 => some x.en.mfs
  | 0x03A => some x.en.xfs
  | 0x03C => some (x.en.nstat.setWidth 64)
  | 0x03D => some x.en.nfs
  | 0x040 => some (x.sy.flags.setWidth 64)
  | 0x041 => some (x.sy.seed.setWidth 64)
  | 0x0F0 => some x.tr.scratch[0]
  | 0x0F1 => some x.tr.scratch[1]
  | 0x0F2 => some x.tr.scratch[2]
  | 0x0F3 => some x.tr.scratch[3]
  | r =>
    if 0x060 ≤ r ∧ r < 0x068 then some (Table.get s.evsel (x.who.id.core.die.val, r - 0x060) 0)
    else if 0x068 ≤ r ∧ r < 0x070 then some (Table.get s.evcnt (x.who.id.core.die.val, r - 0x068) 0)
    else none

/-! ## Writing (R176, R474) -/

/-- Bits hi:lo. -/
def ones (hi lo : Nat) : Word64 := BitVec.ofNat 64 ((2 ^ (hi + 1 - lo) - 1) * 2 ^ lo)

/-- The bits of a register that user mode may write. -/
def userBits (r : Nat) : Word64 :=
  match r with
  | 0x001 => ones 63 6
  | 0x020 => ones 17 10
  | 0x038 | 0x03C | 0x040 => ones 4 0
  | 0x041 => ones 31 0
  | _ => 0

/-- The bits that supervisor mode may write beyond those. -/
def supervisorBits (r : Nat) : Word64 :=
  match r with
  | 0x002 => ones 15 0
  | 0x008 => ones 63 6
  | 0x009 => ones 7 0
  | 0x00A | 0x014 | 0x015 | 0x016 | 0x0F0 | 0x0F1 | 0x0F2 | 0x0F3 => ones 63 0
  | 0x00B => ones 63 2
  | 0x010 => ones 1 0
  | 0x011 => ones 63 63 ||| ones 47 0
  | 0x012 | 0x018 | 0x019 | 0x01A => ones 31 0
  | 0x034 => ones 63 63 ||| ones 55 44 ||| ones 39 0
  | 0x035 => ones 35 0
  | 0x039 => ones 63 63 ||| ones 55 48 ||| ones 39 0
  | 0x03A => ones 63 63 ||| ones 55 48 ||| ones 43 38 ||| ones 15 0
  | 0x03D => ones 63 63 ||| ones 55 46 ||| ones 43 32 ||| ones 15 0
  | r =>
    if 0x060 ≤ r ∧ r < 0x068 then ones 63 63 ||| ones 16 0
    else if 0x068 ≤ r ∧ r < 0x070 then ones 63 0
    else 0

/-- The bits of a register that a mode may write. -/
def writableBits (sup : Bool) (r : Nat) : Word64 := userBits r ||| (if sup then supervisorBits r else 0)

/-- An old value with the masked bits of a new one. -/
def mergeBits (old new mask : Word64) : Word64 := (old &&& ~~~mask) ||| (new &&& mask)

/-- A strand's own register takes a whole new value. -/
def Strand.sysSet (x : Strand) (r : Nat) (v : Word64) : Strand :=
  match r with
  | 0x001 => { x with sy := { x.sy with lcb := v } }
  | 0x002 => { x with sy := { x.sy with asid := v.setWidth 16 } }
  | 0x008 => { x with tr := { x.tr with tvec := v } }
  | 0x009 => { x with tr := { x.tr with ecause := v.setWidth 8 } }
  | 0x00A => { x with tr := { x.tr with eaddr := v } }
  | 0x00B => { x with tr := { x.tr with espc := v } }
  | 0x010 => { x with sy := { x.sy with prio := v.setWidth 2 } }
  | 0x011 => { x with sy := { x.sy with hien := v.getLsbD 63, hi := v.extractLsb' 16 32, lo := v.setWidth 16 } }
  | 0x012 => { x with sy := { x.sy with blkt := v.setWidth 32 } }
  | 0x014 => { x with tr := { x.tr with eem := x.tr.eem.set 0 v } }
  | 0x015 => { x with tr := { x.tr with eem := x.tr.eem.set 1 v } }
  | 0x016 => { x with tr := { x.tr with eem := x.tr.eem.set 2 v } }
  | 0x018 => { x with tr := { x.tr with emask := setPart x.tr.emask 0 (v.setWidth 32) } }
  | 0x019 => { x with tr := { x.tr with emask := setPart x.tr.emask 1 (v.setWidth 32) } }
  | 0x01A => { x with tr := { x.tr with emask := setPart x.tr.emask 2 (v.setWidth 32) } }
  | 0x034 => { x with en := { x.en with cpyfs := v } }
  | 0x035 => { x with en := { x.en with cpyck := v } }
  | 0x038 => { x with en := { x.en with mstat := v.setWidth 5 } }
  | 0x039 => { x with en := { x.en with mfs := v } }
  | 0x03A => { x with en := { x.en with xfs := v } }
  | 0x03C => { x with en := { x.en with nstat := v.setWidth 5 } }
  | 0x03D => { x with en := { x.en with nfs := v } }
  | 0x040 => { x with sy := { x.sy with flags := v.setWidth 5 } }
  | 0x041 => { x with sy := { x.sy with seed := v.setWidth 32 }, lf := { x.lf with gen := seedGen (v.setWidth 32) } }
  | 0x0F0 => { x with tr := { x.tr with scratch := x.tr.scratch.set 0 v } }
  | 0x0F1 => { x with tr := { x.tr with scratch := x.tr.scratch.set 1 v } }
  | 0x0F2 => { x with tr := { x.tr with scratch := x.tr.scratch.set 2 v } }
  | 0x0F3 => { x with tr := { x.tr with scratch := x.tr.scratch.set 3 v } }
  | _ => x

/-- A register takes a whole new value: the crew's QBASE, the die's event counters, or a register of the strand. -/
def State.sysSet (s : State) (r : Nat) (v : Word64) : State :=
  if r = 0x020 then s.modifyCrew s.me.who.gang s.me.who.peer (fun (c : Crew) => { c with qbase := v.extractLsb' 10 8 })
  else if 0x060 ≤ r ∧ r < 0x068 then { s with evsel := Table.put s.evsel (s.me.who.id.core.die.val, r - 0x060) v }
  else if 0x068 ≤ r ∧ r < 0x070 then { s with evcnt := Table.put s.evcnt (s.me.who.id.core.die.val, r - 0x068) v }
  else { s with me := s.me.sysSet r v }

/-- FLAGS waits for the lane queue whether read or written, RNGSEED when written (R66, R74). -/
def waitsForLanes (write : Bool) (r : Nat) : Bool := r == 0x040 || (write && r == 0x041)

/-- `gets` of a register number (R474): Undefined, Privilege on SCRATCH (R453), stall, wait, result. -/
def State.getsNumber (s : State) (d : Reg) (r : Nat) : State :=
  match s.sysRead r with
  | none => s.undefined
  | some v =>
    if 0x0F0 ≤ r && !s.me.tr.sup then s.raiseTrap privilegeCause (BitVec.ofNat 64 r)
    else if s.pending [d] then s.stall [d]
    else if waitsForLanes false r && !s.me.lanesEmpty then s.wait .none
    else (s.setReg d v).advance

/-- `sets` of a register number (R176, R474). -/
def State.setsNumber (s : State) (a : Reg) (r : Nat) : State :=
  match s.sysRead r with
  | none => s.undefined
  | some old =>
    if !s.me.tr.sup && userBits r == 0 then s.raiseTrap privilegeCause (BitVec.ofNat 64 r)
    else if s.pending [a] then s.stall [a]
    else if waitsForLanes true r && !s.me.lanesEmpty then s.wait .none
    else if writableBits s.me.tr.sup r = 0 then s.advance
    else (s.sysSet r (mergeBits old (s.reg a) (writableBits s.me.tr.sup r))).advance

/-- `gets` (R474). -/
def execGets (d : Reg) (r : BitVec 12) (s : State) : Out := .next (s.getsNumber d r.toNat)
/-- `sets` (R474). -/
def execSets (a : Reg) (r : BitVec 12) (s : State) : Out := .next (s.setsNumber a r.toNat)
/-- `sets RNGSEED` (R66). -/
def execRngseedWrite (a : Reg) (s : State) : Out := .next (s.setsNumber a 0x041)
/-- `gets` of FLAGS (R74). -/
def execFlagsRead (d : Reg) (s : State) : Out := .next (s.getsNumber d 0x040)
/-- `sets FLAGS` (R74). -/
def execFlagsWrite (a : Reg) (s : State) : Out := .next (s.setsNumber a 0x040)
/-- `sets LCB` (R177). -/
def execLcbWrite (a : Reg) (s : State) : Out := .next (s.setsNumber a 0x001)
/-- `sets QBASE` (R202). -/
def execQbaseWrite (a : Reg) (s : State) : Out := .next (s.setsNumber a 0x020)
/-- `sets PRIO` (R183). -/
def execPrioWrite (a : Reg) (s : State) : Out := .next (s.setsNumber a 0x010)
/-- `sets TVEC` (R456). -/
def execTvecWrite (a : Reg) (s : State) : Out := .next (s.setsNumber a 0x008)

/-! ## `trap` and `brk` (R475) -/

/-- `trap`: Host Call, resuming at the next instruction. -/
def execTrap (c : BitVec 16) (s : State) : Out := .next (s.trapAt 0x31 (c.setWidth 64) (s.me.pc + 4))
/-- `brk`: Break, resuming at the instruction. -/
def execBrk (c : BitVec 16) (s : State) : Out := .next (s.trapAt 0x30 (c.setWidth 64) s.me.pc)

/-! ## `sret` (R465) -/

/-- ECAUSE names an engine fault. -/
def isEngineCause (c : BitVec 8) : Bool := c == 0x18 || c == 0x19 || c == nearCause || c == copyFaultCause

/-- Clears bit 63. -/
def clearValid (w : Word64) : Word64 := w &&& 0x7FFFFFFFFFFFFFFF#64

/-- The status registers with the valid bit of the one that a cause's fault stands in cleared. DEDUCED, unsafe: log 45. -/
def EngineRegs.served (e : EngineRegs) (cause : BitVec 8) (matrix copy : Bool) : EngineRegs :=
  if cause = copyFaultCause then
    { e with cpyfs := if copy then clearValid e.cpyfs else e.cpyfs, mfs := if matrix then clearValid e.mfs else e.mfs }
  else if cause = nearCause then { e with nfs := clearValid e.nfs }
  else { e with xfs := clearValid e.xfs }

/-- Releases the engine operation whose fault was delivered last. A Copy Fault taken at acceptance is no engine fault (R463): its
status register stands. -/
def State.releaseServed (s : State) : State :=
  let x := s.me
  if !isEngineCause x.tr.ecause then s
  else
    match x.serving with
    | none => { s with me := { x with en := x.en.served x.tr.ecause false false } }
    | some f =>
      let core := x.who.id.core
      let cls : Nat := match x.ops.find? (fun (o : EngineOp) => o.n == f.op) with | some o => o.cls.val | none => 8
      let copy : Bool := decide (cls < 4)
      let matrix : Bool := cls == 4
      let s : State := if copy then s.releaseCopy core f.op x.tr.emask
        else if matrix then s.releaseMatrix core f.op
        else if cls = 5 then s.releaseAnalog core f.op
        else if cls = 6 then s.releaseNear f.op
        else s
      { s with me := { s.me with serving := none, en := s.me.en.served f.cause matrix copy } }

/-- The held runs come back; lanes that the handler removed from EMASK are done in the delivered instruction (R459). DEDUCED, unsafe: log 25. -/
def Strand.resumeRuns (x : Strand) : Strand :=
  let back (r : Run) : Run :=
    match x.lq.delivered with
    | some (run, idx, lanes) => if x.tr.lane && r.id == run then { r with done := r.done ++ [(idx, lanes &&& ~~~x.tr.emask)] } else r
    | none => r
  { x with lq := { x.lq with runs := x.lq.held.map back, held := [], delivered := none } }

/-- An access of a trapped strand that is performed again. -/
def Access.again (a : Access) : Access := { a with status := .issued, sent := false }

/-- The replay list is performed again, before any other instruction (R458), and what stood behind it follows. DEDUCED, safe: log 31. -/
def State.performReplay (s : State) : State :=
  { s with access := s.me.replay.map Access.again ++ s.me.behind.map Access.again ++ s.access
           me := { s.me with redo := s.me.replay.map (fun a => a.n), replay := [], behind := [] } }

/-- The strand's part of `sret`: masks, mode, marks, runs, pc. DEDUCED, safe: log 46. -/
def Strand.returnFrom (x : Strand) : Strand :=
  let y := x.resumeRuns
  { y with
    s := ((y.s.set 56 x.tr.eem[0]).set 57 x.tr.eem[1]).set 58 x.tr.eem[2]
    tr := { y.tr with sup := false }
    pend := y.pend ++ y.asidePend
    asidePend := []
    pc := x.tr.espc
    sch := { y.sch with wait := .none, woken := false, blocked := 0, issuedNow := true } }

/-- `sret`. -/
def execSret (s : State) : Out :=
  .next (
    if !s.me.tr.sup then s.raiseTrap privilegeCause 0
    else if !s.me.lanesEmpty then s.wait .none
    else
      let s := s.releaseServed.performReplay
      { s with me := s.me.returnFrom })

/-! ## `halt` and `halt.gang` (R21, R476) -/

/-- In a handler, `halt` discards what the trap left: held runs, replay list, deferred faults, faulted engine operations, and their marks. -/
def State.abandon (s : State) : State :=
  let x := s.me
  let gone := x.faultedOps
  let lost := gone ++ (x.replay ++ x.behind).map (fun a => a.n)
  let core := x.who.id.core
  let c := s.core core
  let s := s.setCore core
    { c with copies := c.copies.filter (fun k => !gone.contains k.n), analog := c.analog.filter (fun k => !gone.contains k.n)
             dme := { c.dme with queue := c.dme.queue.filter (fun k => !gone.contains k.n) } }
  let s := s.mapCores (fun c => { c with near := c.near.filter (fun k => !gone.contains k.n) })
  let y : Strand :=
    { x with lq := { x.lq with held := [], resume := none, delivered := none, headGen := none }, replay := [], behind := [], asidePend := [], faults := []
             serving := none
             ops := x.ops.filter (fun o => !gone.contains o.n)
             pend := x.pend.filter (fun p => match p.2 with | .reply n => !lost.contains n | .run _ => true) }
  { s with me := y }

/-- `halt` (R21, R184, R476). -/
def execHalt (s : State) : Out :=
  .next (
    let s := if s.me.tr.sup then s.abandon else s
    if s.me.lanesEmpty && s.me.pend.isEmpty && s.outstanding == 0 then
      { s with me := { s.me with sch := { s.me.sch with halted := true, wait := .halted, issuedNow := true } } }
    else s.wait .halted)

/-- `halt.gang` (R476). DEDUCED, unsafe: log 47. -/
def execHaltGang (s : State) : Out :=
  .next (
    if !s.me.tr.sup then s.raiseTrap privilegeCause 0
    else
      let x := s.me
      s.fatalEnd x (s.fatalEvent x 3 x.tr.ecause.toNat x.tr.eaddr x.tr.espc x.tr.elpc))

end Sys2Proof.Machine
end

