-- ==== Sys2Proof/Machine/Pages.lean ====
section
/-! DEFINITION. First-touch frames, discarding pages, shootdown and cache maintenance (R256, R257, R467–R473). -/

namespace Sys2Proof.Machine

/-! ## Operations that hold a waiting-table entry (R468–R473, R503) -/

/-- The instruction issues: an operation with its entry, the destination pending, and the next instruction. The strand parks on s(sd) as for a
load. -/
def State.startOperation (s : State) (d : Reg) (va data : Word64) (asid : BitVec 16) (mode : Nat) (status : Status) : State :=
  let a : Access := { s.newAccess (.scalar d false) true .operation 0 va 8 data (BitVec.ofNat 64 mode) 0 with asid, status }
  let s := (s.takeEntry false).addAccess a
  ({ s with me := s.me.mark d (.reply a.n) } : State).advance

/-- An operation needs an entry (R265, R267). -/
def State.withEntry (s : State) (eff : State → State) : State := if s.entryFree false then eff s else (s.stallEntry false).wait .none

/-- An address that is canonical and not in the peer aperture. -/
def plainAddress (va : Word64) : Bool := canonical va && !aperture va

/-! ## `mapft` (R467–R469) -/

/-- What `mapft` finds on the path to a page: a result code, or the entry to write, where it stands, and whether it is valid. -/
def State.firstTouchSlot (s : State) (asid : BitVec 16) (va : Nat) : Except Nat (Nat × Nat × Bool) :=
  match s.walk asid va with
  | .noPath => .error 3
  | .malformed _ _ _ => .error 4
  | .leaf e big chip a =>
    if big then .error 4
    else if !Leaf.disc e then .error 1
    else if Leaf.kind e == 1 && !Leaf.att e then .ok (chip, a, true)
    else .error 4
  | .empty chip a => .ok (chip, a, false)

/-- The dwords of a frame pool: limit, array, template; none when one cannot be read (R467). -/
def State.poolRead (s : State) (asid : BitVec 16) (pool : Nat) : State × Option (Nat × Nat × Nat) :=
  match s.homeWord (pool + 8) asid true 8 with
  | (s, some limit) =>
    match s.homeWord (pool + 16) asid true 8 with
    | (s, some array) =>
      match s.homeWord (pool + 24) asid true 8 with
      | (s, some template) => (s, some (limit, array, template))
      | (s, none) => (s, none)
    | (s, none) => (s, none)
  | (s, none) => (s, none)

/-- A template has no bit outside [4:1]. -/
def templateOk (t : Nat) : Bool := t == t % 32 && t % 2 == 0

/-- The frame taken from a pool, or a result code: 6 for a fault, 2 for an empty pool. -/
def State.takeFrame (s : State) (asid : BitVec 16) (pool : Word64) : State × Except Nat (Nat × Nat) :=
  if !plainAddress pool then (s, .error 6)
  else
    match s.poolRead asid pool.toNat with
    | (s, none) => (s, .error 6)
    | (s, some (limit, array, template)) =>
      if !templateOk template then (s, .error 6)
      else
        match s.homeRmw pool.toNat asid true 8 (fun next => if limit ≤ next then next else next + 1) with
        | (s, none) => (s, .error 6)
        | (s, some next) =>
          if limit ≤ next then (s, .error 2)
          else
            let at' : Word64 := BitVec.ofNat 64 (array + 8 * next)
            if !plainAddress at' || misaligned at' 8 then (s, .error 6)
            else match s.homeWord at'.toNat asid true 8 with
              | (s, some f) => (s, .ok (f, template))
              | (s, none) => (s, .error 6)

/-- `mapft` after its checks: the result word (R468). -/
def State.firstTouch (s : State) (asid : BitVec 16) (page : Nat) (pool : Word64) : State × Word64 :=
  match s.firstTouchSlot asid page with
  | .error code => (s, BitVec.ofNat 64 code)
  | .ok (chip, a, valid) =>
    match s.takeFrame asid pool with
    | (s, .error code) => (s, BitVec.ofNat 64 code)
    | (s, .ok (f, template)) =>
      if f % s.span ≠ 0 ∨ framesPerChip < f + s.span then (s, 5)
      else
        let s := s.zeroShares asid f s.span
        let s := s.entryWrite chip a (BitVec.ofNat 64 (2 ^ 62 + f * 4096 + template + 1))
        let s := if valid then s.shootRange asid page (page + 65536) else s
        (s, BitVec.ofNat 64 (f * 256))

/-- `mapft` would shoot down a page of a near-memory operation, and waits for it (R439, R468). -/
def State.touchWaits (s : State) (asid : BitVec 16) (page : Nat) : Bool :=
  (match s.firstTouchSlot asid page with | .ok (_, _, valid) => valid | .error _ => false) && s.nearCovers asid page (page + 65536)

/-- `mapft` (R468). DEDUCED, unsafe: log 48. -/
def execMapft (d a b : Reg) (s : State) : Out :=
  .next (
    if !s.me.tr.sup then s.raiseTrap privilegeCause 0
    else if s.pending [d, a, b] then s.stall [d, a, b]
    else
      let va := s.reg a
      let pool := s.reg b
      if !plainAddress va then s.raiseTrap addressCause va
      else if misaligned pool 8 then s.raiseTrap misalignedCause pool
      else if s.touchWaits s.me.sy.asid (va.toNat / 65536 * 65536) then s.wait .none
      else s.withEntry (fun s =>
        let own := s.gauWriteBack s.me.who.id.core.die true (fun l => l.is s.me.who.gang (pool.toNat / 256) s.me.sy.asid)
        match own.firstTouch s.me.sy.asid (va.toNat / 65536 * 65536) pool with
        | (t, v) => (t.l1Kill s.me.who.id.core s.me.sy.asid pool.toNat).startOperation d va 0 s.me.sy.asid 0 (.done v)))

/-! ## `pdisc` (R470) -/

/-- What `pdisc` does with a page. -/
inductive Discard where
  | skip
  | discard (e : Word64) (big : Bool) (chip a : Nat)
  | trap (cause : BitVec 8)
  deriving DecidableEq, Repr

/-- The checks of one page of the range lo to hi. -/
def State.discardOf (s : State) (asid : BitVec 16) (sup : Bool) (lo hi page : Nat) : Discard :=
  if 2 ^ 56 ≤ page then .trap addressCause
  else match s.walk asid page with
  | .malformed _ _ _ => .trap pageFault
  | .noPath => if page = lo ∧ !(s.chip (s.home page)).rtroot.getLsbD 63 then .trap pageFault else .skip
  | .empty _ _ => .skip
  | .leaf e big chip a =>
    let base := page / 33554432 * 33554432
    if Leaf.disc e then .skip
    else if big && !(decide (lo ≤ base) && decide (base + 33554432 ≤ hi)) then .trap addressCause
    else if Leaf.isHost e || !Leaf.w e || (Leaf.sup e && !sup) then .trap protection
    else .discard e big chip a

/-- Lines of a range go without write-back: every LLC, every L1, every GAU. -/
def State.forgetLines (s : State) (asid : BitVec 16) (lo hi : Nat) : State :=
  let s := s.gau.foldl (fun (s : State) e => s.setGau e.1 ((s.gauOf e.1).filter (fun l => !(l.asid == asid && inRange l.granule lo hi)))) s
  let s := s.ddb.chips.foldl (fun (s : State) c => s.dropLines c false (fun l => l.asid == asid && inRange l.granule lo hi)) s
  s.dropL1 asid lo hi

/-- Discards the pages of a list that need it, counting them; a 32 MiB leaf counts 512 and is met again as already discarded. -/
def State.discardPages (s : State) (asid : BitVec 16) (sup : Bool) (lo hi : Nat) (n : Nat) : List Nat → State × Nat
  | [] => (s, n)
  | page :: rest =>
    match s.discardOf asid sup lo hi page with
    | .discard e big chip a =>
      let base := if big then page / 33554432 * 33554432 else page
      let size := if big then 33554432 else 65536
      let s := (s.forgetLines asid base (base + size)).entryWrite chip a (e ||| 0x3000000000000000#64)
      (s.shootRange asid base (base + size)).discardPages asid sup lo hi (n + size / 65536) rest
    | _ => s.discardPages asid sup lo hi n rest

/-- `pdisc` (R470). DEDUCED, unsafe: log 49. -/
def execPdisc (d a b : Reg) (s : State) : Out :=
  .next (
    if s.pending [d, a, b] then s.stall [d, a, b]
    else
      let va := s.reg a
      let n := (s.reg b).toNat
      if n = 0 ∨ 65535 < n then s.undefined
      else if !plainAddress va then s.raiseTrap addressCause va
      else if misaligned va 65536 then s.raiseTrap misalignedCause va
      else
        let lo := va.toNat
        let hi := lo + 65536 * n
        let asid := s.me.sy.asid
        let pages := (List.range n).map (fun i => lo + 65536 * i)
        let first := pages.findSome? (fun p => match s.discardOf asid s.me.tr.sup lo hi p with
          | .trap c => some (c, p)
          | _ => none)
        match first with
        | some (c, p) => s.raiseTrap c (BitVec.ofNat 64 p)
        | none =>
          if s.nearCovers asid lo hi then s.wait .none
          else s.withEntry (fun s =>
            match s.discardPages asid s.me.tr.sup lo hi 0 pages with
            | (t, k) => t.startOperation d va 0 asid 0 (.done (BitVec.ofNat 64 k))))

/-! ## `tlbinv` (R472) and the shootdown (R256) -/

/-- `tlbinv` of a mode: Undefined and Privilege, the stall, the values that are Undefined, Address, Misaligned, then the start. -/
def State.tlbinv (s : State) (mode : Nat) (d a b : Reg) : State :=
  if !s.me.tr.sup then s.raiseTrap privilegeCause 0
  else if s.pending [d, a, b] then s.stall [d, a, b]
  else
    let va := s.reg a
    let w := s.reg b
    let pages := wordBits w 31 0
    let named := mode == 1 || mode == 3
    let bad : Bool :=
      if mode < 2 then pages == 0 || wordBits w 63 48 != 0 || (!named && wordBits w 47 32 != 0)
      else va != 0 || pages != 0 || (!named && wordBits w 47 32 != 0)
    let asid := if named then BitVec.ofNat 16 (wordBits w 47 32) else s.me.sy.asid
    if bad then s.undefined
    else if mode < 2 && !plainAddress va then s.raiseTrap addressCause va
    else if mode < 2 && misaligned va 65536 then s.raiseTrap misalignedCause va
    else s.withEntry (fun s => s.startOperation d va (BitVec.ofNat 64 pages) asid (mode + 1) .issued)

/-- `tlbinv.own`. -/
def execTlbinvOwn (d a b : Reg) (s : State) : Out := .next (s.tlbinv 0 d a b)
/-- `tlbinv.asid`. -/
def execTlbinvAsid (d a b : Reg) (s : State) : Out := .next (s.tlbinv 1 d a b)
/-- `tlbinv.all`. -/
def execTlbinvAll (d a b : Reg) (s : State) : Out := .next (s.tlbinv 2 d a b)
/-- `tlbinv.allasid`. -/
def execTlbinvAllasid (d a b : Reg) (s : State) : Out := .next (s.tlbinv 3 d a b)

/-- SHOOTDOWN: every copy of the translations of a range goes (R256); it waits for near-memory operations on its pages (R439). -/
def execShootdown (n : Nat) (s : State) : Out :=
  .next (match s.access.find? (fun a => a.n == n && a.kind == .operation && a.status == .issued) with
    | none => s
    | some a =>
      let whole := decide (3 ≤ a.cmp.toNat)
      let lo := if whole then 0 else a.va.toNat
      let hi := if whole then 2 ^ 64 else lo + 65536 * a.data.toNat
      if s.nearCovers a.asid lo hi then s.dropTlbs a.asid lo hi else (s.shootRange a.asid lo hi).setStatus n (.done 0))

/-! ## `ccinv` (R473) -/

/-- Writes back the dirty lines that satisfy p and keeps them. -/
def State.cleanLines (s : State) (chip : Nat) (p : LlcLine → Bool) : State :=
  let s := ((s.chip chip).llc.filter p).foldl (fun (s : State) l => s.writeBackLine chip l) s
  s.setChip chip { s.chip chip with llc := (s.chip chip).llc.map (fun l => if p l then { l with dirty := false } else l) }

/-- `ccinv` on a range: `wb` writes back, `inv` invalidates. -/
def State.maintain (s : State) (wb inv : Bool) (lo hi : Nat) : State :=
  let asid := s.me.sy.asid
  let g := s.me.who.gang
  let die := s.me.who.id.core.die
  let mine (l : GauLine) : Bool := l.gang == g && l.asid == asid && inRange l.granule lo hi
  let hit (l : LlcLine) : Bool := l.asid == asid && inRange l.granule lo hi
  let s := if wb then s.gauWriteBack die inv mine else s.setGau die ((s.gauOf die).filter (fun l => !mine l))
  let s := s.ddb.chips.foldl (fun (s : State) c => if inv then s.dropLines c wb hit else s.cleanLines c hit) s
  if inv then s.dropL1 asid lo hi else s

/-- `ccinv` of an operation. DEDUCED, unsafe: log 50. -/
def State.ccinv (s : State) (wb inv : Bool) (d a b : Reg) : State :=
  if !wb && !s.me.tr.sup then s.raiseTrap privilegeCause 0
  else if s.pending [d, a, b] then s.stall [d, a, b]
  else
    let va := s.reg a
    let n := (s.reg b).toNat
    if n < 256 ∨ 2 ^ 40 < n then s.undefined
    else if !plainAddress va || !plainAddress (va + s.reg b - 1) then s.raiseTrap addressCause va
    else if misaligned va 256 || misaligned (s.reg b) 256 then s.raiseTrap misalignedCause va
    else s.withEntry (fun s => (s.maintain wb inv va.toNat (va.toNat + n)).startOperation d va 0 s.me.sy.asid 0 (.done 0))

/-- `ccinv.wb`. -/
def execCcinvWb (d a b : Reg) (s : State) : Out := .next (s.ccinv true false d a b)
/-- `ccinv.inv`. -/
def execCcinvInv (d a b : Reg) (s : State) : Out := .next (s.ccinv false true d a b)
/-- `ccinv.wbinv`. -/
def execCcinvWbinv (d a b : Reg) (s : State) : Out := .next (s.ccinv true true d a b)

end Sys2Proof.Machine
end

