-- ==== Sys2Proof/Machine/Sync.lean ====
section
/-! DEFINITION. Meanings of pause, queue and lock instructions and of the taper (R192–R221), and of HOME_ATOMIC, which data atomics and
device-scope locks share. -/

namespace Sys2Proof.Machine

/-! ## Parties and the blocking rule (R192–R195) -/

/-- A crew strand j of peer p belongs to a kind-0 party (R193). -/
def inParty (w : Nat) (peer cs : Nat) : Bool :=
  (w.testBit 21 || bitsOf w 20 16 == peer) && (bitsOf w 15 0 == 0 || w.testBit cs)

/-- A kind-0 word names some strand of the gang (R193): some core, and some strand of its crew. -/
def Ident.namesSome (x : Ident) (w : Nat) : Bool :=
  (w.testBit 21 || decide (bitsOf w 20 16 < x.cores)) && (bitsOf w 15 0 == 0 || bitsOf w x.crewn 0 != 0)

/-- A party word without must-be-zero bits set and of a listed kind (R192). -/
def partyOk (w : Nat) : Bool :=
  match bitsOf w 63 62 with
  | 0 => bitsOf w 61 22 == 0
  | 1 => bitsOf w 61 32 == 0
  | 2 => bitsOf w 61 57 == 0
  | _ => false

/-- The fields of a strand's co-schedule set, its own included (R189). -/
def State.coscheduled (s : State) (f g : Field) : Bool :=
  f.cls == 0 && f.cosched && g.cls == 0 && g.cosched && f.asid == g.asid && s.gangs.any (fun x => x.id.block == g.block && x.id.asid == g.asid)

/-- Waiting on gang h of the own field (R194). -/
def gangWaitOk (f : Field) (own h : Nat) : Bool :=
  h == own || (decide (h < f.fx * f.fy) && (match f.cls with | 0#2 => true | 1#2 => decide (h < own) | _ => false))

/-- Waiting on another field (R194). DEDUCED, unsafe: log 17. -/
def State.fieldWaitOk (s : State) (f : Field) (block : Word64) : Bool :=
  s.fields.any (fun g => g.block == block && !(g.block == f.block && g.asid == f.asid) && s.coscheduled f g)

/-- A wait of the strand with the turn on a party is legal (R194). DEDUCED, unsafe: log 17. -/
def State.waitOk (s : State) (w : Word64) : Bool :=
  let v := w.toNat
  match s.fieldOf s.me.who.gang with
  | none => false
  | some f =>
    match bitsOf v 63 62 with
    | 0 => s.me.who.namesSome v
    | 1 => gangWaitOk f s.me.who.gang.index (bitsOf v 31 0)
    | _ => s.fieldWaitOk f (BitVec.ofNat 64 (bitsOf v 56 0 * 128))

/-- `pause` (R200). -/
def execPause (p a : Reg) (s : State) : Out :=
  .next (s.checked true true [p, a] (fun s =>
    let party := s.reg p
    let n := (s.reg a).toNat
    if !partyOk party.toNat then s.undefined
    else if !s.waitOk party then s.raiseTrap illegalWaitCause party
    else if n = 0 ∨ 65535 < n then s.undefined
    else ({ s with me := { s.me with sch := { s.me.sch with paused := BitVec.ofNat 16 n } } } : State).advance))

/-! ## Queues (R201–R212) -/

/-- A queue descriptor (R203). -/
structure Desc where
  base : Nat
  size : Nat
  slots : Nat
  defined : Bool
  reserve : Bool
  allowance : Nat
  fill : Nat
  head : Nat
  tail : Nat
  producer : Nat
  consumer : Nat
  phase : Nat
  deriving DecidableEq, Repr

/-- The descriptor at a G offset. -/
def readDesc (m : Mem) (d : Nat) : Desc :=
  let b (i : Nat) : Nat := (m.read (d + i)).toNat
  { base := ofLe (m.bytes d 4), size := ofLe (m.bytes (d + 4) 2), slots := b 6, defined := (b 7).testBit 7, reserve := (b 7).testBit 6
    allowance := b 8, fill := b 9, head := b 10, tail := b 11, producer := ofLe (m.bytes (d + 12) 4), consumer := ofLe (m.bytes (d + 16) 4)
    phase := ofLe (m.bytes (d + 24) 8) }

/-- The descriptor at a G offset of a crew: bytes that no `qdef` wrote define no queue (R201, R203, R441). DEDUCED, unsafe: log 36. -/
def Crew.descAt (c : Crew) (d : Nat) : Desc :=
  let k := readDesc c.mg d
  { k with defined := k.defined && c.qdefs.contains d, reserve := k.reserve && c.qdefs.contains d }

def writeDesc (m : Mem) (d : Nat) (q : Desc) : Mem :=
  m.writeBytes d (leBytes 4 q.base ++ leBytes 2 q.size ++ leBytes 1 q.slots ++
    leBytes 1 ((if q.defined then 128 else 0) + (if q.reserve then 64 else 0)) ++ leBytes 1 q.allowance ++ leBytes 1 q.fill ++
    leBytes 1 q.head ++ leBytes 1 q.tail ++ leBytes 4 q.producer ++ leBytes 4 q.consumer ++ leBytes 4 0 ++ leBytes 8 q.phase)

/-- Places a handle in the slot at the tail (R206). -/
def pushInto (m : Mem) (d : Nat) (handle : Nat) : Mem :=
  let q := readDesc m d
  let m := m.writeBytes (q.base + q.tail * q.size) (leBytes 4 handle)
  writeDesc m d { q with phase := q.phase ^^^ 2 ^ q.tail, tail := (q.tail + 1) % q.slots, allowance := q.allowance - 1, fill := q.fill + 1 }

/-- Takes the oldest entry; a reserve entry joins the ring (R207). -/
def popFrom (m : Mem) (d : Nat) : Mem × Word64 :=
  let q := readDesc m d
  let i := q.head
  let v := (if q.phase.testBit i then 2 ^ 38 else 0) + i * 2 ^ 32 + ofLe (m.bytes (q.base + i * q.size) 4)
  let q1 := { q with head := (i + 1) % q.slots, fill := q.fill - 1, allowance := q.allowance + 1 }
  if q.reserve then
    let m := m.writeBytes (q.base + i * q.size) (m.bytes (q.base + q.slots * q.size) q.size)
    (writeDesc m d { q1 with phase := q1.phase ^^^ 2 ^ i, tail := (i + 1) % q.slots, fill := q1.fill + 1, allowance := q1.allowance - 1
                             reserve := false }, BitVec.ofNat 64 v)
  else (writeDesc m d q1, BitVec.ofNat 64 v)

/-- The word (peer << 8) | q that names a queue in EADDR. -/
def queueWord (peer : Nat) (q : Fin 32) : Word64 := BitVec.ofNat 64 (peer * 256 + q.val)

/-- The checks that every queue instruction makes: encoding, stall, Address on the peer, Address on the descriptor (R202, R204). The effect
gets the peer, its crew and the descriptor's offset. -/
def State.queueChecked (s : State) (ok : Bool) (regs : List Reg) (own : Bool) (b : Reg) (q : Fin 32)
    (eff : State → Nat → Crew → Nat → State) : State :=
  s.checked ok true (if own then regs else b :: regs) (fun s =>
    let peer := if own then s.me.who.peer else ((s.reg b).extractLsb' 0 5).toNat
    if s.me.who.cores ≤ peer then s.raiseTrap addressCause (queueWord peer q)
    else match s.crewOf s.me.who.gang peer with
      | none => s.raiseTrap addressCause (queueWord peer q)
      | some c =>
        let d := c.descriptor q.val
        if c.g * 1024 < d + 32 then s.raiseTrap addressCause (BitVec.ofNat 64 d) else eff s peer c d)

def State.queueId (s : State) (peer : Nat) (q : Fin 32) : QueueId := ⟨s.me.who.gang, peer, q⟩

/-- A parked strand is woken and re-examines its queue (R208). -/
def State.wakeStrand (s : State) (t : StrandId) : State := s.modify t (fun x => { x with sch := { x.sch with wait := .none, woken := true } })

/-- Wakes the popper, or the pusher, that has been parked longest on a queue. -/
def State.wakePopper (s : State) (g : GangId) (peer : Nat) (q : Fin 32) : State :=
  match (s.crewOf g peer).bind (fun c => c.poppers.find? (fun p => p.1 == q)) with
  | some p => (s.modifyCrew g peer (fun c => { c with poppers := c.poppers.erase p })).wakeStrand p.2
  | none => s
def State.wakePusher (s : State) (g : GangId) (peer : Nat) (q : Fin 32) : State :=
  match (s.crewOf g peer).bind (fun c => c.pushers.find? (fun p => p.1 == q)) with
  | some p => (s.modifyCrew g peer (fun c => { c with pushers := c.pushers.erase p })).wakeStrand p.2
  | none => s

/-- Every access that a release must follow is performed: the runs enqueued before it are complete, and so are the strand's own accesses. -/
def State.mayRelease (s : State) : Bool := s.me.lanesReleased && s.drained

/-- The release of a queue operation at gang scope (R206, R304). -/
def State.queueRelease (s : State) : State := s.releaseAt s.me.who.id.core.die s.me.who.gang 2

/-- The acquire of a queue operation at gang scope. -/
def State.queueAcquire (s : State) : State := s.acquireAt s.me.who.id.core s.me.who.gang s.me.sy.asid 2

/-- A strand's request stands in the queue unit's order as long as the strand waits for its turn there. -/
def State.requestLive (s : State) (p : QueueId) (e : Fin 32 × StrandId) : Bool :=
  e.1 == p.q && (s.strand e.2).any (fun x => x.sch.wait == .queue p)

/-- The requests for a queue that still stand, in order of arrival. -/
def State.requestsAt (s : State) (p : QueueId) (c : Crew) : List (Fin 32 × StrandId) := c.requests.filter (s.requestLive p)

/-- The queue unit serves the strand with the turn: the queue has had no operation in this cycle, and no earlier request stands (R208). -/
def State.queueServes (s : State) (p : QueueId) (c : Crew) : Bool :=
  !c.served.any (fun e => e.1 == p.q) && (match s.requestsAt p c with | e :: _ => e.2 == s.me.who.id | [] => true)

/-- An operation at the queue unit: performed in its turn, one for each queue in a cycle; else the request joins the queue unit's order (R208). -/
def State.atQueue (s : State) (peer : Nat) (q : Fin 32) (eff : State → State) : State :=
  let p := s.queueId peer q
  match s.crewOf s.me.who.gang peer with
  | none => s
  | some c =>
    let mine := (q, s.me.who.id)
    let standing := s.requestsAt p c
    let others := c.requests.filter (fun e => e.1 != q)
    if s.queueServes p c then
      eff (s.modifyCrew s.me.who.gang peer (fun k =>
        { k with requests := others ++ standing.filter (fun e => e != mine), served := (q, k.mg.bytes (k.descriptor q.val) 32) :: k.served }))
    else
      (s.modifyCrew s.me.who.gang peer (fun k =>
        { k with requests := others ++ (if standing.contains mine then standing else standing ++ [mine]) })).wait (.queue p)

/-- The strand leaves the parked lists of its crew's gang. -/
def State.unpark (s : State) : State :=
  let t := s.me.who.id
  { s with crews := s.crews.map (fun (c : Crew) => { c with pushers := c.pushers.filter (fun p => p.2 != t), poppers := c.poppers.filter (fun p => p.2 != t) }) }

/-- A push that has room (R206). -/
def State.doPush (s : State) (peer : Nat) (d : Nat) (q : Fin 32) (handle : Word64) : State :=
  let g := s.me.who.gang
  let s := s.unpark.modifyCrew g peer (fun c => { c with mg := pushInto c.mg d (handle.toNat % 2 ^ 32) })
  s.wakePopper g peer q

/-- A pop that finds an entry: the word, and the state with the entry taken (R207). -/
def State.doPop (s : State) (peer : Nat) (c : Crew) (d : Nat) (q : Fin 32) : State × Word64 :=
  let g := s.me.who.gang
  let r := popFrom c.mg d
  let s := s.unpark.modifyCrew g peer (fun c => { c with mg := r.1 })
  let s := if (readDesc r.1 d).allowance > 0 then s.wakePusher g peer q else s
  (s.queueAcquire, r.2)

/-- A push parks with its handle (R206); the taper count of the queue starts with its first pusher (R213). -/
def State.parkPush (s : State) (peer : Nat) (q : Fin 32) (handle : Word64) : State :=
  let mine := (q, s.me.who.id)
  let s := s.modifyCrew s.me.who.gang peer (fun c =>
    if c.pushers.contains mine then c
    else { c with pushers := c.pushers ++ [mine]
                  tapers := if c.pushers.any (fun p => p.1 == q) then c.tapers else (q, 0) :: c.tapers.filter (fun t => t.1 != q) })
  ({ s with me := { s.me with sch := { s.me.sch with offer := handle.setWidth 32 } } } : State).wait (.push (s.queueId peer q))

/-- A pop parks (R207). -/
def State.parkPop (s : State) (peer : Nat) (q : Fin 32) : State :=
  let mine := (q, s.me.who.id)
  (s.modifyCrew s.me.who.gang peer (fun c => if c.poppers.contains mine then c else { c with poppers := c.poppers ++ [mine] })).wait
    (.pop (s.queueId peer q))

/-- `push` (R206). -/
def execPush (a b : Reg) (o : Bool) (q : Fin 32) (s : State) : Out :=
  .next (s.queueChecked (Instr.push a b o q).wellFormed [a] o b q (fun s peer c d =>
    let k := c.descAt d
    if !k.defined || !inParty k.producer s.me.who.peer s.me.who.cs then s.raiseTrap illegalWaitCause (queueWord peer q)
    else if !s.mayRelease then s.wait .none
    else s.atQueue peer q (fun s =>
      if k.allowance = 0 then s.parkPush peer q (s.reg a)
      else (s.queueRelease.doPush peer d q (s.reg a)).advance)))

/-- `pop` (R207). -/
def execPop (d b : Reg) (o : Bool) (q : Fin 32) (s : State) : Out :=
  .next (s.queueChecked (Instr.pop d b o q).wellFormed [d] o b q (fun s peer c off =>
    let k := c.descAt off
    if !k.defined || !inParty k.consumer s.me.who.peer s.me.who.cs then s.raiseTrap illegalWaitCause (queueWord peer q)
    else s.atQueue peer q (fun s =>
      if k.fill = 0 then s.parkPop peer q
      else
        let r := s.doPop peer c off q
        (r.1.setReg d r.2).advance)))

/-- `qtry.push`: a failing one is no release (R209). -/
def execQtryPush (d a b : Reg) (o : Bool) (q : Fin 32) (s : State) : Out :=
  .next (s.queueChecked (Instr.qtryPush d a b o q).wellFormed [d, a] o b q (fun s peer c off =>
    let k := c.descAt off
    if !k.defined then s.raiseTrap illegalWaitCause (queueWord peer q)
    else if k.allowance ≠ 0 ∧ !s.mayRelease then s.wait .none
    else s.atQueue peer q (fun s =>
      if k.allowance = 0 then (s.setReg d 0).advance
      else ((s.queueRelease.doPush peer off q (s.reg a)).setReg d 1).advance)))

/-- `qtry.pop` (R209). -/
def execQtryPop (d b : Reg) (o : Bool) (q : Fin 32) (s : State) : Out :=
  .next (s.queueChecked (Instr.qtryPop d b o q).wellFormed [d] o b q (fun s peer c off =>
    let k := c.descAt off
    if !k.defined then s.raiseTrap illegalWaitCause (queueWord peer q)
    else s.atQueue peer q (fun s =>
      if k.fill = 0 then (s.setReg d 0x8000000000000000#64).advance
      else
        let r := s.doPop peer c off q
        (r.1.setReg d r.2).advance)))

/-- The descriptor of a queue as the operation of the previous cycle left it (R208). -/
def Crew.descBefore (c : Crew) (q : Fin 32) : Desc :=
  let d := c.descriptor q.val
  match c.served.find? (fun e => e.1 == q) with
  | some e => ({ c with mg := Mem.writeBytes c.mg d e.2 } : Crew).descAt d
  | none => c.descAt d

/-- `qinfo` (R210). -/
def execQinfo (d b : Reg) (o : Bool) (q : Fin 32) (s : State) : Out :=
  .next (s.queueChecked (Instr.qinfo d b o q).wellFormed [d] o b q (fun s _ c _ =>
    let k := c.descBefore q
    let v := k.allowance + k.fill * 2 ^ 8 + k.head % 64 * 2 ^ 16 + k.tail % 64 * 2 ^ 24 + k.slots % 128 * 2 ^ 32 + 2 ^ 39 +
      (if k.reserve then 2 ^ 40 else 0)
    (s.setReg d (if k.defined then BitVec.ofNat 64 v else 0)).advance))

/-- `qdef` (R205): the parties' reserved bits are examined where R205 puts that check, after the two Address checks, not at step 5 of R105.
DEDUCED, unsafe: log 36. DEDUCED, unsafe: log 80. -/
def execQdef (a b : Reg) (q : Fin 32) (s : State) : Out :=
  .next (s.checked true true [a, b] (fun s =>
    let v := (s.reg a).toNat
    let slots := bitsOf v 47 40
    let size := 4 * bitsOf v 39 32
    let base := bitsOf v 17 0
    let prod := wordBits (s.reg b) 31 0
    let cons := wordBits (s.reg b) 63 32
    let peer := s.me.who.peer
    match s.myCrew with
    | none => s.raiseTrap addressCause 0
    | some c =>
      let d := c.descriptor q.val
      if bitsOf v 63 48 ≠ 0 ∨ bitsOf v 31 18 ≠ 0 ∨ slots < 2 ∨ 64 < slots ∨ size < 4 ∨ 256 < size ∨ base % 4 ≠ 0 then s.undefined
      else if c.g * 1024 < d + 32 then s.raiseTrap addressCause (BitVec.ofNat 64 d)
      else if c.g * 1024 < base + (slots + 1) * size then s.raiseTrap addressCause (BitVec.ofNat 64 base)
      else if bitsOf prod 31 22 ≠ 0 ∨ bitsOf cons 31 22 ≠ 0 then s.undefined
      else if !s.me.who.namesSome prod || !s.me.who.namesSome cons then s.raiseTrap illegalWaitCause (queueWord peer q)
      else if c.pushers.any (fun p => p.1 == q) || c.poppers.any (fun p => p.1 == q) || (c.descAt d).reserve then
        s.raiseTrap protection (BitVec.ofNat 64 d)
      else
        let q' : Desc := { base, size, slots, defined := true, reserve := false, allowance := slots, fill := 0, head := 0, tail := 0, producer := prod, consumer := cons, phase := 0 }
        if !s.mayRelease then s.wait .none
        else s.atQueue peer q (fun s =>
          (s.queueRelease.modifyCrew s.me.who.gang peer (fun (c : Crew) => { c with mg := writeDesc c.mg d q', qdefs := if c.qdefs.contains d then c.qdefs else d :: c.qdefs })).advance)))

/-! ## The taper (R213, R214) -/

/-- The strands of a party of a gang. -/
def State.partyOf (s : State) (g : GangId) (w : Nat) : List Strand :=
  s.strands.filter (fun x => x.who.gang == g && inParty w x.who.peer x.who.cs)

/-- The one queue and direction (true for push) that every strand of a list is parked on. -/
def parkedOn (xs : List Strand) : Option (QueueId × Bool) :=
  let places := xs.map (fun x => match x.sch.wait with | .push q => some (q, true) | .pop q => some (q, false) | _ => none)
  match places with
  | some p :: rest => if rest.all (fun r => r == some p) then some p else none
  | _ => none

/-- The walk of a taper that left queue q0: true when it finds a cycle. -/
def State.taperWalk (s : State) (q0 : QueueId) : Nat → QueueId → Bool → Bool
  | 0, _, _ => false
  | n + 1, q, dir =>
    match s.crewOf q.gang q.peer with
    | none => false
    | some c =>
      let k := c.descAt (c.descriptor q.q.val)
      match parkedOn (s.partyOf q.gang (if dir then k.consumer else k.producer)) with
      | none => false
      | some (qn, d) => if qn = q0 ∧ d = true then true else s.taperWalk q0 n qn d

/-- TAPER: after each 1,024 cycles of a parked pusher the queue unit probes for a cycle; a found cycle grants the reserve slot to the pusher
parked longest, or raises Deadlock in it (R213, R214), which is taken once the strand's lane instructions in progress have ended (R460). -/
def execTaper (q : QueueId) (s : State) : Out :=
  .next (
    match s.crewOf q.gang q.peer with
    | none => s
    | some c =>
      match c.tapers.find? (fun t => t.1 == q.q), c.pushers.find? (fun p => p.1 == q.q) with
      | some (_, n), some p =>
        if n < 1024 then s
        else
          let s := s.modifyCrew q.gang q.peer (fun c => { c with tapers := (q.q, n - 1024) :: c.tapers.filter (fun t => t.1 != q.q) })
          if !s.taperWalk q 16 q true then s
          else
            let d := c.descriptor q.q.val
            let k := c.descAt d
            let s := s.focus p.2
            if k.reserve then
              let s := s.leaveWait s.me
              let s : State := { s with me := { s.me with sch := { s.me.sch with deadlock := some (queueWord q.peer q.q) } } }
              if s.me.sch.hold then s else s.trapAt 0x11 (queueWord q.peer q.q) s.me.pc
            else
              (s.queueRelease.modifyCrew q.gang q.peer (fun c =>
                { c with mg := writeDesc (c.mg.writeBytes (k.base + k.slots * k.size) (leBytes 4 s.me.sch.offer.toNat)) d { k with reserve := true }
                         pushers := c.pushers.erase p })).advance
      | _, _ => s)

/-! ## Locks (R215–R221) -/

namespace LockWord

def pref (w : Nat) : Bool := w.testBit 31
def held (w : Nat) : Bool := w.testBit 30
def wwait (w : Nat) : Nat := bitsOf w 29 16
def readers (w : Nat) : Nat := bitsOf w 15 0

/-- `rlock` is granted. -/
def readable (w : Nat) : Bool := !held w && decide (readers w < 0xFFFF) && !(pref w && decide (0 < wwait w))
/-- `wlock` is granted. -/
def writable (w : Nat) : Bool := !held w && readers w == 0
/-- A writer more waits. The field is 14 bits wide and the spec says nothing of a writer beyond 0x3FFF: the field then stays.
DESIGN CHOICE, unsafe: log 81. -/
def addWriter (w : Nat) : Nat := if wwait w = 0x3FFF then w else w + 65536
/-- The writer that waits is granted. -/
def grantWriter (w : Nat) : Nat := (if wwait w = 0 then w else w - 65536) + 2 ^ 30
def unread (w : Nat) : Nat := if readers w = 0 then w else w - 1
def unheld (w : Nat) : Nat := if held w then w - 2 ^ 30 else w

/-- Readers granted in order of waiting: each with the word before its grant. -/
def grantReaders {α : Type} (w : Nat) : List α → Nat × List (α × Nat)
  | [] => (w, [])
  | x :: xs =>
    if readers w < 0xFFFF then
      let r := grantReaders (w + 1) xs
      (r.1, (x, w) :: r.2)
    else (w, [])

/-- The grants after an unlock (R219), from the waiters in order of waiting (true for a writer): the word, and who is granted with which
word. -/
def grants {α : Type} (w : Nat) (waiters : List (α × Bool)) : Nat × List (α × Nat) :=
  let readersWait := waiters.any (fun p => !p.2)
  match waiters.find? (fun p => p.2) with
  | some p =>
    if writable w && (pref w || !readersWait) then (grantWriter w, [(p.1, w)])
    else if !held w && !(pref w && decide (0 < wwait w)) then grantReaders w ((waiters.filter (fun p => !p.2)).map (·.1))
    else (w, [])
  | none =>
    if !held w && !(pref w && decide (0 < wwait w)) then grantReaders w ((waiters.filter (fun p => !p.2)).map (·.1)) else (w, [])

end LockWord

/-- The record of a lock at its home. -/
def Chiplet.lock (c : Chiplet) (va asid : Nat) : Lock :=
  (c.locks.find? (fun l => l.va.toNat == va && l.asid.toNat == asid)).getD
    { va := BitVec.ofNat 64 va, asid := BitVec.ofNat 16 asid, waiters := [], holders := [], overflow := false }

def State.setLock (s : State) (chip : Nat) (l : Lock) : State :=
  let c := s.chip chip
  let rest := c.locks.filter (fun k => !(k.va == l.va && k.asid == l.asid))
  s.setChip chip { c with locks := if l.waiters.isEmpty && l.holders.isEmpty && !l.overflow then rest else l :: rest }

/-- A strand joins the holder record: one entry per field, four at most (R221). -/
def Lock.join (l : Lock) (g : GangId) : Lock :=
  match l.holders.find? (fun h => h.1 == g.block) with
  | some h => { l with holders := (h.1, min h.2.1 g.index, max h.2.2 g.index) :: l.holders.filter (fun k => k.1 != g.block) }
  | none => if l.holders.length < 4 then { l with holders := (g.block, g.index, g.index) :: l.holders } else { l with overflow := true }

/-- A refused wait is legal against the record (R221). -/
def State.lockWaitOk (s : State) (l : Lock) (g : GangId) : Bool :=
  match s.fieldOf g with
  | none => false
  | some f => !l.overflow && l.holders.all (fun h =>
      if h.1 = f.block then
        (match f.cls with | 0#2 => true | 1#2 => decide (h.2.2 ≤ g.index) | _ => h.2.1 == g.index && h.2.2 == g.index)
      else s.fieldWaitOk f h.1)

/-- A lock instruction completes in its strand: the word before its change, and the next instruction. -/
def Strand.lockDone (x : Strand) (next : Nat) (d : Reg) (old : Nat) : Strand :=
  let y := x.setReg next d (BitVec.ofNat 64 old)
  { y with pc := y.pc + 4, sch := { y.sch with wait := .none, woken := false, blocked := 0, issuedNow := true } }

/-- A device-scope lock instruction's access completes with a word. -/
def State.lockGranted (s : State) (a : Access) (old : Nat) : State :=
  let s := match a.kind with
    | .rlock | .wlock => s.acquireAt a.strand.core a.gang a.asid 3
    | _ => s
  let d : Reg := match a.origin with | .scalar d _ => d | .lane _ _ => 0
  (s.dropAccess a.n).modify a.strand (fun x => x.lockDone s.nextId d old)

/-- The record begins anew when the word leaves the all-zero state (R221). -/
def Lock.since (l : Lock) (w : Nat) : Lock := if idleWord w then { l with holders := [], overflow := false } else l

/-- A lock instruction at its home: grant, or check the record and park, or release and grant waiters (R217–R219, R221). -/
def State.performLock (s : State) (a : Access) : State :=
  let va := a.va.toNat
  let chip := s.home va
  let s := if Pol.release a.pol then s.releaseAt a.strand.core.die a.gang 3 else s
  match s.cachedLeaf chip a.asid va with
  | none => s.startWalk a
  | some e =>
    if Leaf.isHost e then s.setStatus a.n (.faulted addressCause)
    else if s.pathHeld a || !s.reachesHome a.strand.core.die va then s
    else
      let s := s.gauWriteBack a.strand.core.die true (fun k => k.is a.gang (va / 256) a.asid)
      let l := (s.chip chip).lock va a.asid.toNat
      let legal := s.lockWaitOk l a.gang
      let waiters := l.waiters
      let change (w : Nat) : Nat := match a.kind with
        | .rlock => if LockWord.readable w then w + 1 else w
        | .wlock => if LockWord.writable w then w + 2 ^ 30 else if legal then LockWord.addWriter w else w
        | .runlock => (LockWord.grants (LockWord.unread w) waiters).1
        | _ => (LockWord.grants (LockWord.unheld w) waiters).1
      match s.homeApply false va a.asid needBoth a.sup 0 4 (fun old => some (leBytes 4 (change (ofLe old)))) with
      | (s, .done oldBytes _ _ _) =>
        let w := ofLe oldBytes
        let l := l.since w
        let s := s.l1Kill a.strand.core a.asid va
        match a.kind with
        | .rlock =>
          if LockWord.readable w then (s.setLock chip (l.join a.gang)).lockGranted a w
          else if !legal then s.setStatus a.n (.faulted illegalWaitCause)
          else (s.setLock chip { l with waiters := waiters ++ [(a.n, false)] }).setStatus a.n .waiter
        | .wlock =>
          if LockWord.writable w then (s.setLock chip (l.join a.gang)).lockGranted a w
          else if !legal then s.setStatus a.n (.faulted illegalWaitCause)
          else (s.setLock chip { l.join a.gang with waiters := waiters ++ [(a.n, true)] }).setStatus a.n .waiter
        | k =>
          let w1 := if k = .runlock then LockWord.unread w else LockWord.unheld w
          let g := LockWord.grants w1 waiters
          let granted := g.2.filterMap (fun p => (s.access.find? (fun b => b.n == p.1)).map (fun b => (b, p.2)))
          let l := { l with waiters := waiters.filter (fun p => !g.2.any (fun q => q.1 == p.1)) }
          let l := granted.foldl (fun (l : Lock) p => l.join p.1.gang) l
          let l := l.since g.1
          let s := (s.setLock chip l).lockGranted a w
          granted.foldl (fun s p => s.lockGranted p.1 p.2) s
      | (s, o) => s.homeStatus a o

/-- HOME_ATOMIC: an atomic or a device-scope lock instruction at the home's atomic unit (R217–R219, R283, R284). -/
def execHomeAtomic (n : Nat) (s : State) : Out :=
  .next (match s.ready n with
    | some a =>
      match a.kind with
      | .atomic _ _ | .cas => s.homeAtomicPlain a
      | .rlock | .wlock | .runlock | .wunlock => s.performLock a
      | _ => s
    | none => s)

/-- A device-scope lock instruction: issue, then wait for the grant, the park or the fault (R216, R217, R457). -/
def State.deviceLock (s : State) (kind : Kind) (d a : Reg) (release : Bool) : State :=
  let waiting : Option Access := match s.me.sch.wait with
    | .lock n | .unlock n => s.access.find? (fun (b : Access) => b.n == n)
    | _ => none
  match waiting with
  | some _ => s
  | none =>
    let ea := s.reg a
    if !canonical ea || aperture ea then s.raiseTrap addressCause ea
    else if misaligned ea 4 then s.raiseTrap misalignedCause ea
    else s.afterLanes release (fun s =>
      if !s.mayIssue then s.wait .none
      else if !s.entryFree false then (s.stallEntry false).wait .none
      else
        let x := s.newAccess (.scalar d false) true kind 0 ea 4 0 0 (if release then 0x0000000E#32 else 0x0000000D#32)
        ((s.takeEntry false).addAccess x).wait (if release then .unlock x.n else .lock x.n))

/-- The word of a crew-scope lock, and the crew with a new word. -/
def Crew.lockWord (c : Crew) (off : Nat) : Nat := ofLe (c.mg.bytes off 4)
def Crew.setLockWord (c : Crew) (off w : Nat) : Crew := { c with mg := c.mg.writeBytes off (leBytes 4 w) }

/-- A crew-scope lock instruction at the own bank (R216–R220). -/
def State.crewLock (s : State) (kind : Kind) (d a : Reg) (release : Bool) : State :=
  let ea := s.reg a
  let off := ea.toNat
  let t := s.me.who.id
  s.addressChecked 1 ea 4 true (fun s =>
    match s.myCrew with
    | none => s.raiseTrap addressCause ea
    | some c =>
      if c.lockWaiters.any (fun w => w.strand == t) then s
      else if (release && !s.mayRelease) || s.wakingAt c 1 off 4 then s.wait .none
      else
        let w := c.lockWord off
        let set (f : Crew → Crew) : State := s.modifyCrew s.me.who.gang s.me.who.peer f
        match kind with
        | .rlock =>
          if LockWord.readable w then ((set (fun c => c.setLockWord off (w + 1))).setReg d (BitVec.ofNat 64 w)).advance
          else (set (fun c => { c with lockWaiters := c.lockWaiters ++ [⟨off, t, false, d⟩] })).wait (.lock 0)
        | .wlock =>
          if LockWord.writable w then ((set (fun c => c.setLockWord off (w + 2 ^ 30))).setReg d (BitVec.ofNat 64 w)).advance
          else (set (fun c => { c.setLockWord off (LockWord.addWriter w) with lockWaiters := c.lockWaiters ++ [⟨off, t, true, d⟩] })).wait (.lock 0)
        | k =>
          let w1 := if k = .runlock then LockWord.unread w else LockWord.unheld w
          let mine := c.lockWaiters.filter (fun p => p.off == off)
          let g := LockWord.grants w1 (mine.map (fun p => (p, p.writer)))
          let s := set (fun c => { c.setLockWord off g.1 with lockWaiters := c.lockWaiters.filter (fun p => !g.2.any (fun q => q.1 == p)) })
          let s := (s.setReg d (BitVec.ofNat 64 w)).advance
          g.2.foldl (fun s p => s.modify p.1.strand (fun x => x.lockDone s.nextId p.1.d p.2)) s)

/-- A lock instruction after decoding (R216). -/
def State.lockWith (s : State) (ok : Bool) (kind : Kind) (d a : Reg) (p : BitVec 3) (release : Bool) : State :=
  s.checked ok true [d, a] (fun s => if p = 0 then s.deviceLock kind d a release else s.crewLock kind d a release)

/-- `rlock` (R216–R219). -/
def execRlock (d a : Reg) (p : BitVec 3) (s : State) : Out := .next (s.lockWith (Instr.rlock d a p).wellFormed .rlock d a p false)
/-- `runlock`. -/
def execRunlock (d a : Reg) (p : BitVec 3) (s : State) : Out := .next (s.lockWith (Instr.runlock d a p).wellFormed .runlock d a p true)
/-- `wlock`. -/
def execWlock (d a : Reg) (p : BitVec 3) (s : State) : Out := .next (s.lockWith (Instr.wlock d a p).wellFormed .wlock d a p false)
/-- `wunlock`. -/
def execWunlock (d a : Reg) (p : BitVec 3) (s : State) : Out := .next (s.lockWith (Instr.wunlock d a p).wellFormed .wunlock d a p true)

end Sys2Proof.Machine
end

