-- ==== Sys2Proof/Machine/Traps.lean ====
section
/-! DEFINITION. Traps that become due between instructions (R457–R464, R537): lane faults, the replay list, engine faults, Starvation and
Block Timeout; and the words that are no instruction (R82, R113). -/

namespace Sys2Proof.Machine

/-! ## Lane faults (R459–R461, R464) -/


/-- The instruction of a lane word, if it is one. -/
def laneInstr (w : BitVec 96) : Option Instr := match decodeLane w with | .ok i => some i | .error _ => none

/-- The word whose instruction executes next. -/
def Strand.nextWord (x : Strand) : Option (BitVec 96) := x.run.words[x.run.next]?

/-- The own-bank access with which an open chain of the strand with the turn goes on, as an access of its first active lane. -/
def State.chainAccess (s : State) (i : Instr) (f : LaneFields) : Option Access :=
  let row : Option Nat := match i with | .vldl _ | .vstl _ => some (f.ty.width / 8) | .vldlBe _ => some 8 | _ => none
  let store : Bool := match i with | .vst _ | .vstl _ => true | _ => false
  if f.space = 0 ∨ f.space = 6 then none
  else (firstLane (s.me.todo f.sel) (fun _ => true)).map (fun l =>
    let ea := match row with | some n => s.me.rowAddress f n l | none => s.me.gatherAddress f l
    s.newAccess (.lane s.nextId l) false (if store then .store else .load) f.space.toNat ea (f.ty.width / 8) 0 0 (s.me.policy f))

/-- An open chain of the strand with the turn cannot end: a faulted access holds back the memory instruction that ends it. -/
def State.chainStuck (s : State) : Bool :=
  match (s.me.nextWord.bind laneInstr).bind (fun i => (laneParts i).map (fun p => (i, p.2))) with
  | some (i, f) =>
    laneMemory i && (match s.chainAccess i f with
      | some a => (s.stuck s.me).any (fun b => s.holdsBack s.me b a)
      | none => false)
  | none => false

/-- The lane stream has stopped: no chain can go on, and what an instruction in progress still has outstanding is held behind a faulted access. -/
def State.laneStopped (s : State) (x : Strand) : Bool :=
  (!x.chainOpen || (s.focus x.who.id).chainStuck) &&
    s.access.all (fun a => a.strand != x.who.id || a.isScalar || !a.kind.ordered || (a.isFaulted && x.told a) || s.heldBack a)

/-- A lane fault is ready (R459). -/
def State.laneFaultDue (s : State) (x : Strand) : Bool := x.lq.ops.any (fun o => o.faulted != 0) && s.laneStopped x

/-- The head of the chain that holds an operation, or the operation's own index. -/
def Strand.headOf (x : Strand) (o : LaneOp) : Nat :=
  match x.lq.chain with
  | some c => if c.run = o.run ∧ c.head ≤ o.idx ∧ o.idx ≤ c.last then c.head else o.idx
  | none => o.idx

/-- The oldest of the faulted operations. -/
def oldestOp : List LaneOp → Option LaneOp
  | [] => none
  | o :: rest =>
    match oldestOp rest with
    | some p => if o.run < p.run ∨ (o.run = p.run ∧ o.idx < p.idx) then some o else some p
    | none => some o

/-- The place a run goes back to: the first of its instructions that did not complete, or the head of its open chain. -/
def Strand.backTo (x : Strand) (r : Run) : Nat :=
  let start := match x.lq.chain with | some c => if c.run = r.id then min r.next c.head else r.next | none => r.next
  (x.lq.ops.filter (fun o => o.run == r.id)).foldl (fun n o => min n (x.headOf o)) start

/-- The runs go back to the first instruction that did not complete in each; the lanes that it completed are done and have their values (R459). -/
def Strand.rewind (x : Strand) : Strand :=
  let y := x.lq.ops.foldl (fun (y : Strand) o => y.writeArrived o) x
  let runs := y.lq.runs.map (fun (r : Run) =>
    { r with next := x.backTo r
             done := r.done ++ (x.lq.ops.filter (fun o => o.run == r.id)).map (fun o => (o.idx, o.arrived &&& ~~~o.faulted)) })
  { y with lq := { y.lq with runs, ops := [] }, ops := y.ops.filter (fun p => !x.lq.ops.any (fun o => o.reduce && o.n == p.n)) }

/-- The instructions in progress of the strand with the turn, which can go no further, are held (R459). -/
def State.withdraw (s : State) : State :=
  { s with me := s.me.rewind, access := s.access.filter (fun a => a.strand != s.me.who.id || a.isScalar || !a.kind.ordered) }

/-- A chain that was held before its end is executed again from its head (R32, R461). -/
def Strand.restChain (x : Strand) : Strand :=
  match x.lq.chain with
  | some c => { x with lq := { x.lq with chain := none, resume := some (c.run, c.head, c.last), headGen := some c.gen }, lf := { x.lf with gen := c.gen } }
  | none => x

/-- The trap of the oldest lane fault. -/
def State.deliverLaneFault (s : State) : State :=
  match oldestOp (s.me.lq.ops.filter (fun o => o.faulted != 0)) with
  | none => s
  | some o =>
    match s.me.lq.runs.find? (fun r => r.id == o.run) with
    | none => s
    | some r =>
      let head := s.me.headOf o
      s.withdraw.enterLaneTrap o.cause o.eaddr o.run head o.idx (r.start + BitVec.ofNat 64 (12 * head)) o.faulted
        ((r.doneAt o.idx ||| (o.arrived &&& ~~~o.faulted)) &&& r.em)

/-- A trap between scalar instructions: lane instructions in progress end first (R460); those that a faulted access holds back are held. -/
def State.atLaneRest (s : State) (trap : State → State) : State :=
  if !s.me.laneBusy then trap s
  else if s.laneStopped s.me then
    let t := s.withdraw
    trap { t with me := t.me.restChain }
  else { s with me := { s.me with lq := { s.me.lq with draining := true } } }

/-! ## The replay list (R458) -/

/-- A trap of scalar origin between instructions: a wait is left (R537). -/
def State.asyncTrap (s : State) (cause : BitVec 8) (addr : Word64) : State :=
  s.atLaneRest (fun s => (s.leaveWait s.me).enterTrap cause addr s.me.pc)

/-- The cause of a faulted access. -/
def Access.faultCause (a : Access) : BitVec 8 := match a.status with | .faulted c => c | _ => 0

/-- The oldest scalar access that faulted for a handler: its trap is fatal. -/
def State.handlerFault (s : State) : Option Access := if s.me.tr.sup then s.me.failed.find? Access.isFaulted else none

/-! ## Engine faults and Starvation (R357, R400, R425, R463) -/

/-- The status register that a fault's class writes, with the position of the operation. -/
def Strand.showFault (x : Strand) (f : EngineFault) : Strand :=
  match x.ops.find? (fun (o : EngineOp) => o.n == f.op) with
  | none => x
  | some o =>
    let w := f.status ||| BitVec.ofNat 64 (x.older o.cls o.n % 65536)
    if o.cls.val < 4 then { x with en := { x.en with cpyfs := w, cpyck := f.chunk } }
    else if o.cls = 4 then { x with en := { x.en with mfs := w } }
    else if o.cls = 5 then { x with en := { x.en with xfs := w } }
    else { x with en := { x.en with nfs := w } }

/-- The trap of the oldest engine fault. An `lcopy`'s faulting lanes go to EMASK (R351, R358). DEDUCED, unsafe: log 42. -/
def State.deliverEngineFault (s : State) (f : EngineFault) : State :=
  s.atLaneRest (fun s =>
    let s := s.leaveWait s.me
    let x := s.me.showFault f
    let x := { x with faults := x.faults.filter (fun g => g.op != f.op), serving := some f, sch := { x.sch with halted := false } }
    let s := ({ s with me := x } : State).enterTrap f.cause f.eaddr x.pc
    if f.lanes = 0 then s else { s with me := { s.me with tr := { s.me.tr with emask := f.lanes } } })

/-- The Starvation trap (R199). -/
def State.deliverStarvation (s : State) : State :=
  s.atLaneRest (fun s => ({ s with me := { s.me with sch := { s.me.sch with starving := false } } } : State).asyncTrap 0x13 0)

/-! ## Delivery (R462) -/

/-- The traps that come before the instruction at the boundary: the oldest lane fault, then the replay list. -/
def State.dueFirst (s : State) : Option State :=
  if s.laneFaultDue s.me then some s.deliverLaneFault
  else match s.handlerFault with
    | some a => some (s.asyncTrap a.faultCause a.va)
    | none =>
      match s.me.replay.find? Access.isFaulted with
      | some a => if s.me.tr.sup then none else some (s.asyncTrap a.faultCause a.va)
      | none => none

/-- The traps that come after it: engine faults, oldest first, then Starvation; deferred in supervisor mode (R463). -/
def State.dueLast (s : State) : Option State :=
  if s.me.tr.sup || !s.me.redo.isEmpty then none
  else match s.me.faults with
    | f :: _ => some (s.deliverEngineFault f)
    | [] => if s.me.sch.starving then some s.deliverStarvation else none

/-- TRAP_ENTRY: a trap that is due is taken at the strand's boundary. While the strand can issue its next instruction, a precise trap of
that instruction comes before an engine fault, so those are taken in its turn. -/
def execTrapEntry (t : StrandId) (s : State) : Out :=
  .next (match s.strand t with
    | none => s
    | some x =>
      let f := s.focus t
      if x.sch.retired || x.sch.hold then s
      else match f.dueFirst with
        | some u => u
        | none =>
          if x.sch.wait = .none then s
          else match f.dueLast with
            | some u => u
            | none => s)

/-! ## Block Timeout (R197, R198) -/

/-- What a blocked strand waits on, as EADDR names it. -/
def State.blockedOn (s : State) (x : Strand) : Option Word64 :=
  match x.sch.wait with
  | .push q => some (queueWord q.peer q.q)
  | .pop q => some (queueWord q.peer q.q)
  | .lock n =>
    if n = 0 then
      (s.crews.findSome? (fun (c : Crew) => c.lockWaiters.find? (fun w => w.strand == x.who.id))).map (fun w => BitVec.ofNat 64 w.off)
    else (s.access.find? (fun a => a.n == n)).map (fun a => a.va)
  | _ => none

/-- BLOCK_TIMEOUT: a strand blocked for BLKT.limit cycles abandons the wait and takes the trap; the instruction has no effect. In a drain the
strand leaves the wait, and executes the instruction again after the restore (R212, R478). -/
def execBlockTimeout (t : StrandId) (s : State) : Out :=
  .next (match s.strand t with
    | none => s
    | some x =>
      match s.blockedOn x with
      | none => s
      | some ea => if x.sy.blkt = 0 ∨ x.sch.blocked < x.sy.blkt.toNat ∨ x.sch.hold then s else (s.focus t).asyncTrap 0x12 ea)

/-! ## Words that are no instruction -/

/-- A scalar word that decodes to no instruction raises Undefined (R82). -/
def execUndefinedScalarWord (_w : Word32) (s : State) : Out := .next s.undefined

/-- A lane word that decodes to no instruction raises Undefined in every lane of the run's mask (R113). -/
def execUndefinedLaneOpcode (_w : BitVec 96) (s : State) : Out := .next (s.laneTrap undefinedCause 0 s.me.run.em)

end Sys2Proof.Machine
end

