-- ==== Sys2Proof/Machine/Chain.lean ====
section
/-! DEFINITION. The next lane instruction of a strand: chains and their check (R29–R32), hazards (R109), done instructions (R459, R461),
occupancy of the lane pipeline (R172). -/

namespace Sys2Proof.Machine

/-! ## Decoded instructions of a run -/

def Run.instr (r : Run) (i : Nat) : Option Instr := (r.words[i]?).bind laneInstr

/-! ## Chains (R29, R30) -/

/-- A member of a chain: its word and the registers it reads and writes. -/
structure Member where
  word : BitVec 96
  memory : Bool
  reads : Uses
  writes : Uses
  deriving DecidableEq, Repr

/-- What a word is in the chain grammar, which is checked before Undefined (R29–R32, R114): the registers that its opcode and operand codes
name. A word whose opcode has no row names none. DEDUCED, unsafe: log 54. -/
def memberOf (w : BitVec 96) : Member :=
  match laneShape w with
  | some i => ⟨w, laneMemory i, laneReads i, laneWrites i⟩
  | none => ⟨w, false, .nothing, .nothing⟩

/-- The words that join an open chain in which the listed latches have been written. -/
def joins (latches : List Nat) : List (BitVec 96) → List Member
  | [] => []
  | w :: ws =>
    let m := memberOf w
    if m.reads.x.any latches.contains then m :: joins (m.writes.x ++ latches) ws else []

/-- The chain that an instruction heads, itself first; alone where nothing joins. -/
def chainFrom : List (BitVec 96) → List Member
  | [] => []
  | w :: ws => let m := memberOf w; m :: joins m.writes.x ws

/-- Some member reads a latch that no earlier member wrote. -/
def readsUnwritten (latches : List Nat) : List Member → Bool
  | [] => false
  | m :: ms => m.reads.x.any (fun k => !latches.contains k) || readsUnwritten (m.writes.x ++ latches) ms

/-- Registers other than latches. -/
def Uses.held (u : Uses) : Uses := { u with x := [] }

/-- The check of R30. An instruction that writes no latch and reads none stands alone and is no member of a chain (R29). -/
def illegalChain (ms : List Member) : Bool :=
  readsUnwritten [] ms || decide (4 < ms.length) || ms.dropLast.any (fun m => m.memory) ||
    (ms.any (fun m => m.writes.x != []) && ms.any (fun p => ms.any (fun q => p.writes.held.meets q.reads))) ||
    ms.dropLast.any (fun m => (laneScalar m.word).isSome)

/-- The chain at the strand's next lane instruction. -/
def Strand.nextChain (x : Strand) : List Member := chainFrom (x.run.words.drop x.run.next)

/-! ## Hazards (R109) -/

/-- The registers that an outstanding lane memory instruction will write. -/
def LaneOp.uses (o : LaneOp) : Uses := match o.dst with | some d => Uses.nothing.add (d, o.ty.wide) | none => .nothing

/-- The outstanding operations whose data the instructions wait for. -/
def Strand.hazards (x : Strand) (ms : List Member) : List LaneOp :=
  x.lq.ops.filter (fun o => ms.any (fun m => o.uses.meets m.reads || o.uses.meets m.writes))

/-- The operation awaits replies of global loads. -/
def State.awaitsReply (s : State) (o : LaneOp) : Bool :=
  s.access.any (fun a => a.entry && (match a.origin with | .lane n _ => n == o.n | .scalar _ _ => false))

/-- Condition 2 of R166: the lane stream is empty, or its next instruction waits on a global load reply. -/
def State.laneWaits (s : State) (x : Strand) : Bool :=
  match x.nextWord with
  | none => x.lq.runs.isEmpty || x.lq.ops.any s.awaitsReply
  | some _ => (x.hazards x.nextChain).any s.awaitsReply

/-! ## Done instructions (R459, R461) -/

/-- The selector and the scalar form of a lane word decide its active lanes; a word that is no instruction acts in every lane of em. -/
def wordSel (w : BitVec 96) : BitVec 3 :=
  match (laneInstr w).bind laneParts with
  | some (_, f) => f.sel
  | none => 0

/-- The next instruction has completed in some lane and has no active lane left. -/
def Strand.nextDone (x : Strand) (w : BitVec 96) : Bool := x.run.doneAt x.run.next != 0 && x.todo (wordSel w) == 0

/-- The strand stands at the head of a chain that is executed again. -/
def Strand.resumesHere (x : Strand) : Bool :=
  match x.lq.resume with
  | some (run, head, _) => run == x.run.id && head == x.run.next
  | none => false

/-! ## Occupancy (R172, the table of the lane stream) -/

/-- Cycles for which an instruction occupies the lane pipeline. An instruction that the table of chapter 04 does not list takes its three beats;
the table gives the 12 cycles of the iterative functions for f32 only, and the model takes them for every type. DESIGN CHOICE, unsafe: log 110. -/
def laneOccupancy (w : BitVec 96) : Nat :=
  match laneInstr w with
  | none => 3
  | some i =>
    match i with
    | .vdiv _ | .vsqrt _ | .vrcp _ | .vrsq _ | .vexp2 _ | .vlog2 _ => 12
    | .vqblk _ | .vdqblk _ => 6
    | .afma _ | .aadd _ | .aclr _ | .awiden _ | .anarrow _ => 6
    | .vadd _ | .vsub _ | .vmul _ | .vfma _ | .vmin _ | .vmax _ | .vabs _ | .vneg _ | .vcmp _ | .vsel _ | .vmov _ =>
      (match laneParts i with | some (_, f) => if f.ty == .f64 then 12 else 3 | none => 3)
    | _ => 3

end Sys2Proof.Machine
end

