-- ==== Sys2Proof/Machine/Schedule.lean ====
section
/-! DEFINITION. Issue ports, slots, priority and the wick (R164–R174, R183, R184, R186, R199, R200): what one cycle of a port does around
its issue. -/

namespace Sys2Proof.Machine

/-! ## Strands of a port -/

/-- The strand issues on the port (R164). -/
def Strand.onPort (x : Strand) (c : CoreId) (p : Fin 4) : Bool := x.live && x.who.id.core == c && decide (x.who.id.rs.val % 4 = p.val)

/-- Effective priority (R170). -/
def Strand.priority (x : Strand) : Int := if x.sch.paused = 0 then (x.sy.prio.toNat : Int) else -1

/-- Changes the scheduling state. -/
def Strand.withSched (x : Strand) (f : Sched → Sched) : Strand := { x with sch := f x.sch }
def State.sched (s : State) (t : StrandId) (f : Sched → Sched) : State := s.modify t (fun x => x.withSched f)

/-- A trap is due that the strand takes at its next boundary, or an engine fault that it abandons because its handler has halted (R476). -/
def State.trapDue (s : State) (x : Strand) : Bool :=
  s.laneFaultDue x || (!x.tr.sup && (!x.replay.isEmpty || !x.faults.isEmpty || x.sch.starving)) || (s.focus x.who.id).handlerFault.isSome ||
    (x.tr.sup && x.sch.halted && !x.faults.isEmpty)

/-- Condition 1 of R166: the scalar stream is halted or waits on a listed event that has not occurred. -/
def State.scalarWaits (s : State) (x : Strand) : Bool :=
  !s.trapDue x &&
    (match x.sch.wait with
     | .none => false
     | .counter cls n => decide (n < x.count cls)
     | .unlock _ | .queue _ => false
     | .halted => x.sch.halted || !(x.lanesEmpty && x.pend.isEmpty &&
         !s.access.any (fun a => a.strand == x.who.id && a.isScalar && a.space == 0 && a.kind.plain))
     | _ => true)

/-- The strand is not parked by R166: its two conditions do not hold together (R165). DEDUCED, unsafe: log 51. -/
def State.mayRun (s : State) (x : Strand) : Bool := !x.sch.retired && !x.sch.hold && !(s.scalarWaits x && s.laneWaits x)

/-- The first of two strands for a slot or for issue, by a strict order on keys, ties to the lowest resident index. -/
def bestBy (better : Strand → Strand → Bool) : List Strand → Option Strand
  | [] => none
  | x :: rest => match bestBy better rest with
    | some y => if better y x then some y else some x
    | none => some x

/-! ## The four parts of a cycle (R186)

Each part's effect takes hold in the cycle after: the strands that may take a slot, and the slots they may fill, are those of the
cycle's start; a strand that takes a slot in a cycle issues from the next one on (R168, R169). -/

/-- Part 1: retired strands free their slots, and slotted strands that meet R166 park. A strand outside the slots that is ready no more is parked
(R165). -/
def State.freeSlots (s : State) (c : CoreId) (p : Fin 4) : State :=
  (s.strands.filter (fun x => x.onPort c p)).foldl (fun (s : State) x =>
    if x.sch.retired || x.sch.hold then s.sched x.who.id (fun k => { k with slot := none })
    else if s.mayRun x || x.sch.parked then s
    else
      let s' := s.sched x.who.id (fun k => { k with slot := none, parked := true })
      if x.sch.slot.isSome then s'.countEvent c.die.val 4 else s') s

/-- Part 2: parked strands whose awaited event has occurred become ready (R167). -/
def State.wakeParked (s : State) (c : CoreId) (p : Fin 4) : State :=
  (s.strands.filter (fun x => x.onPort c p && x.sch.parked)).foldl (fun (s : State) x =>
    if s.mayRun x then s.sched x.who.id (fun k => { k with parked := false, readyAt := s.clock }) else s) s

/-- The ready strands of a port that hold no slot. -/
def State.unslotted (s : State) (c : CoreId) (p : Fin 4) : List Strand :=
  s.strands.filter (fun x => x.onPort c p && x.sch.slot.isNone && !x.sch.parked && s.mayRun x)

/-- A promoted or a starving strand displaces whatever the priorities (R174, R199). -/
def Strand.urgent (x : Strand) : Bool := x.sch.promoted || x.sch.starving

/-- The slot holder that R169 displaces: lowest effective priority, then slotted most recently, then highest resident index. A slot that
was entered in the cycle is entered by no second strand (R186), and a promoted or starving holder keeps its slot. DEDUCED, unsafe: log 83. -/
def State.victim (s : State) (c : CoreId) (p : Fin 4) : Option Strand :=
  bestBy (fun y x => decide (y.priority < x.priority) || (decide (y.priority = x.priority) &&
      (decide (x.sch.slottedAt < y.sch.slottedAt) || (x.sch.slottedAt == y.sch.slottedAt && decide (x.who.id.rs.val < y.who.id.rs.val)))))
    (s.strands.filter (fun x => x.onPort c p && x.sch.slot.isSome && !x.sch.entered && !x.urgent))

/-- Strand x takes the slot of strand v, which becomes ready and unslotted, or parked (R169). -/
def State.displace (s : State) (x v : Strand) : State :=
  let stays := s.mayRun v
  let s := s.sched v.who.id (fun k => { k with slot := none, parked := !stays, readyAt := s.clock })
  s.sched x.who.id (fun k => { k with slot := v.sch.slot, entered := true, slottedAt := s.clock, parked := false })

/-- The order in which ready strands take slots: effective priority, then ready longest, then resident index (R168). -/
def takesSlotBefore (y x : Strand) : Bool :=
  decide (x.priority < y.priority) || (decide (y.priority = x.priority) &&
    (decide (y.sch.readyAt < x.sch.readyAt) || (y.sch.readyAt == x.sch.readyAt && decide (y.who.id.rs.val < x.who.id.rs.val))))

/-- The order in which promoted strands displace: by wick count, then resident index, as R171 picks them. -/
def promotedBefore (y x : Strand) : Bool :=
  decide (x.sch.wick < y.sch.wick) || (x.sch.wick == y.sch.wick && decide (y.who.id.rs.val < x.who.id.rs.val))

/-- A strand put into a list by an order; equals stay in the order in which they came. -/
def insertBy (before : Strand → Strand → Bool) (x : Strand) : List Strand → List Strand
  | [] => [x]
  | y :: ys => if before x y then x :: y :: ys else y :: insertBy before x ys

/-- Strands in an order. -/
def orderBy (before : Strand → Strand → Bool) (xs : List Strand) : List Strand := xs.foldl (fun l x => insertBy before x l) []

/-- The strands displace one after another, each the holder that R169 names then, where `ok` allows it. -/
def State.displaceEach (s : State) (c : CoreId) (p : Fin 4) (ok : Strand → Strand → Bool) (xs : List Strand) : State :=
  xs.foldl (fun (s : State) x =>
    match s.victim c p with
    | some v => if ok x v then s.displace x v else s
    | none => s) s

/-- Part 3, for the strands ready at the cycle's start: promoted and starving ones displace whatever the priorities (R174, R199), then
those of a higher priority than a holder (R169). Which of several strands of equal standing displaces first is the model's choice.
DESIGN CHOICE, unsafe: log 79. DEDUCED, unsafe: log 51. -/
def State.displacements (s : State) (c : CoreId) (p : Fin 4) (ready : List Strand) : State :=
  let s := s.displaceEach c p (fun _ _ => true) (orderBy promotedBefore (ready.filter Strand.urgent))
  let others := ready.filter (fun x => (s.strand x.who.id).any (fun y => y.sch.slot.isNone))
  s.displaceEach c p (fun x v => decide (v.priority < x.priority)) (orderBy takesSlotBefore others)

/-- Part 4: the slots that were free at the cycle's start go to the strands that were ready then (R168). -/
def State.fillSlots (s : State) (c : CoreId) (p : Fin 4) (free : List (Fin 4)) (ready : List Strand) : State :=
  free.foldl (fun (s : State) k =>
    match bestBy takesSlotBefore ((s.unslotted c p).filter (fun x => ready.any (fun y => y.who.id == x.who.id))) with
    | some x => s.sched x.who.id (fun q => { q with slot := some k, entered := true, slottedAt := s.clock })
    | none => s) s

/-- The four parts, in order. -/
def State.slotCycle (s : State) (c : CoreId) (p : Fin 4) : State :=
  let ready := s.unslotted c p
  let free := (List.finRange 4).filter (fun k => !s.strands.any (fun x => x.onPort c p && x.sch.slot == some k))
  ((((s.freeSlots c p).wakeParked c p).displacements c p ready).fillSlots c p free ready)

/-! ## Counters of a cycle -/

/-- A wait that Block Timeout counts: a blocked `push`, `pop`, `rlock` or `wlock` (R198). -/
def Sched.isBlocked (k : Sched) : Bool := match k.wait with | .push _ | .pop _ | .lock _ => true | _ => false

/-- One cycle of a strand's counts: a pause, a blocked wait. The last cycle of a pause is the expiry's. DEDUCED, unsafe: log 52. -/
def Sched.tick (k : Sched) : Sched :=
  { k with paused := if 1 < k.paused.toNat then k.paused - 1 else k.paused
           blocked := if k.isBlocked then k.blocked + 1 else 0, entered := false }

/-- The events that a strand's counts call for as the previous cycle left them: a wake-up of that cycle has come before a timeout
(R198), and a pause of n cycles ends with its n-th (R200). -/
def Strand.dueEvents (x : Strand) : List Action :=
  let t := x.who.id
  (if x.sch.paused = 1 then [.event (.pauseExpiry t)] else []) ++
  (if x.sy.blkt.toNat ≠ 0 ∧ x.sch.isBlocked ∧ x.sy.blkt.toNat ≤ x.sch.blocked then [.event (.blockTimeout t)] else [])

/-- The events that a strand's wick count calls for (R174, R199). -/
def Strand.wickEvents (x : Strand) : List Action :=
  let t := x.who.id
  (if x.sy.lo ≠ 0 ∧ !x.sch.promoted ∧ x.sy.lo.toNat ≤ x.sch.wick then [.event (.wickPromotion t)] else []) ++
  (if x.sy.hien ∧ !x.sch.starved ∧ x.sy.hi.toNat ≤ x.sch.wick then [.event (.starvation t)] else [])

/-- A cycle begins at the queue unit of a crew: its tapers count one (R213), and each queue may have its operation (R208). -/
def Crew.tickQueues (c : Crew) : Crew :=
  { c with tapers := (c.tapers.filter (fun t => c.pushers.any (fun p => p.1 == t.1))).map (fun t => (t.1, t.2 + 1)), served := [] }

/-- The tapers that a crew's queue unit sends. -/
def Crew.dueTapers (k : Crew) : List Action :=
  (k.tapers.filter (fun t => decide (1024 ≤ t.2))).map (fun t => Action.event (.taper ⟨k.gang, k.peer, t.1⟩))

/-- PORT_CYCLE: slots are freed, awaited events make strands ready, displacements are made and free slots filled, in that order (R186); counts
advance; then, after the cycles of the other ports that the agenda names, the port issues. A core's cycle is that of its port 0. -/
def execPortCycle (c : CoreId) (p : Fin 4) (s : State) : Out :=
  .next (
    let due := (s.strands.filter (fun x => x.onPort c p)).flatMap Strand.dueEvents
    let taps : List Action := if p = 0 then (s.crews.filter (fun (k : Crew) => k.core == c)).flatMap Crew.dueTapers else []
    let s := s.modifyAll (fun x => x.onPort c p) (fun x => x.withSched Sched.tick)
    let s := s.slotCycle c p
    let core := s.core c
    let s := if core.ports[p].laneFree = 0 then s
      else s.setCore c { core with ports := core.ports.set p { core.ports[p] with laneFree := core.ports[p].laneFree - 1 } }
    let s := if p = 0 then
        { s with crews := s.crews.map (fun (k : Crew) => if k.core == c then k.tickQueues else k) }.setCore c { s.core c with cycles := (s.core c).cycles + 1 }
      else s
    let s := if p = 0 ∧ c.x = 0 ∧ c.y = 0 then s.countEvent c.die.val 1 else s
    { s with clock := s.clock + 1, agenda := due ++ taps ++ s.agenda ++ [.issue c p] })

/-! ## Events of one strand -/

/-- WICK_PROMOTION: the count reaches WICK.lo; a strand without a slot displaces a holder in the next cycle (R174, R186). -/
def execWickPromotion (t : StrandId) (s : State) : Out :=
  .next (match s.strand t with
    | none => s
    | some x =>
      if x.sy.lo = 0 ∨ x.sch.wick < x.sy.lo.toNat ∨ x.sch.promoted ∨ x.sch.parked ∨ x.sch.retired then s
      else (s.sched t (fun k => { k with promoted := true })).countEvent t.core.die.val 6)

/-- STARVATION: the count reaches WICK.hi with hien set; raised once for a count, delivered as a trap (R174, R199). A strand without a
slot displaces a holder in the next cycle. -/
def execStarvation (t : StrandId) (s : State) : Out :=
  .next (match s.strand t with
    | none => s
    | some x =>
      if !x.sy.hien || decide (x.sch.wick < x.sy.hi.toNat) || x.sch.starved || x.sch.retired then s
      else s.sched t (fun k => { k with starving := true, starved := true }))

/-- PAUSE_EXPIRY: the last cycle of a pause passes and the field priority returns (R170, R200). -/
def execPauseExpiry (t : StrandId) (s : State) : Out :=
  .next (match s.strand t with
    | some x => if x.sch.paused = 1 then s.sched t (fun k => { k with paused := 0 }) else s
    | none => s)

/-- STRAND_RETIRE: a halted strand whose counters are zero retires (R184); its slot is freed in the first part of its port's next cycle (R186). -/
def execStrandRetire (t : StrandId) (s : State) : Out :=
  .next (match s.strand t with
    | some x =>
      if x.sch.halted && x.ops.isEmpty then s.sched t (fun k => { k with retired := true, parked := false }) else s
    | none => s)

/-! ## The order of issue (R171, R172) -/

/-- Slots after the one that last issued, in round-robin order. -/
def slotDistance (last : Fin 4) (k : Option (Fin 4)) : Nat := match k with | some i => (i.val + 3 - last.val) % 4 | none => 4

/-- The strand y comes before x: promoted ones first, by wick count then resident index; then by priority, then in slot order. -/
def issuesBefore (last : Fin 4) (y x : Strand) : Bool :=
  if y.sch.promoted != x.sch.promoted then y.sch.promoted
  else if y.sch.promoted then decide (x.sch.wick < y.sch.wick) || (x.sch.wick == y.sch.wick && decide (y.who.id.rs.val < x.who.id.rs.val))
  else decide (x.priority < y.priority) || (decide (y.priority = x.priority) &&
    decide (slotDistance last y.sch.slot < slotDistance last x.sch.slot))

/-- The strand holds a slot, and has held it since an earlier cycle (R164, R168). -/
def Strand.mayIssueNow (x : Strand) : Bool := x.sch.slot.isSome && !x.sch.entered

/-- The slotted strands of a port in the order in which they are considered. -/
def State.issueOrder (s : State) (c : CoreId) (p : Fin 4) (last : Fin 4) : List StrandId :=
  (orderBy (issuesBefore last) (s.strands.filter (fun x => x.onPort c p && x.mayIssueNow))).map (fun x => x.who.id)

end Sys2Proof.Machine
end

