-- ==== Sys2Proof/Machine/Place.lean ====
section
/-! DEFINITION. Placement of gangs (R149–R163, R189), the completion word (R158) and gang retirement (R185). -/

namespace Sys2Proof.Machine

/-! ## Room on a core (R159–R162) -/

/-- What a crew takes of a core: strand indices and buffer space in KiB. -/
structure Room where
  core : CoreId
  strands : Nat
  g : Nat
  w : Nat
  a : Nat
  c : Nat
  deriving DecidableEq, Repr

/-- What the crews of a field take, on a core. -/
def Field.room (f : Field) (core : CoreId) : Room :=
  { core, strands := f.nstr + 1, g := roundUp4 f.g, w := roundUp4 f.w, a := roundUp4 f.a, c := roundUp4 f.c }

def Crew.room (k : Crew) : Room :=
  { core := k.core, strands := k.rss.length, g := roundUp4 k.g, w := roundUp4 k.w, a := roundUp4 k.a, c := roundUp4 k.c }

/-- The rooms in use. -/
def State.rooms (s : State) : List Room := s.crews.map Crew.room

/-- A core can take a crew beside the rooms in use (R159). -/
def takes (used : List Room) (r : Room) : Bool :=
  let mine := used.filter (fun u => u.core == r.core)
  let sum (f : Room → Nat) : Nat := mine.foldl (fun n u => n + f u) 0
  decide (sum Room.strands + r.strands ≤ 32) && decide (sum Room.g + r.g ≤ 256) && decide (sum Room.w + r.w ≤ 256) &&
    decide (sum Room.a + r.a ≤ 512) && decide (sum Room.c + r.c ≤ 256)

/-- The cores of a rectangle in peer order (R150). -/
def rectangle (die : Fin 8) (x0 y0 lw lh : Nat) : List CoreId :=
  (List.range (2 ^ lh)).flatMap (fun j => (List.range (2 ^ lw)).map (fun i => ⟨die, Fin.ofNat 8 (x0 + i), Fin.ofNat 4 (y0 + j)⟩))

/-- Aligned origins in ascending order of y0, then x0 (R149, R161). -/
def origins (lw lh : Nat) : List (Nat × Nat) :=
  (List.range (4 / 2 ^ lh)).flatMap (fun j => (List.range (8 / 2 ^ lw)).map (fun i => (i * 2 ^ lw, j * 2 ^ lh)))

/-- The first origin on a die at which a gang of a field fits, beside the rooms in use. -/
def firstOrigin (used : List Room) (f : Field) (die : Fin 8) : Option (Nat × Nat) :=
  (origins f.lw f.lh).find? (fun o => (rectangle die o.1 o.2 f.lw f.lh).all (fun c => takes used (f.room c)))

/-- The shapes of R149. -/
def shapeOk (lw lh : Nat) : Bool := [(0, 0), (1, 0), (1, 1), (2, 1), (2, 2), (3, 2)].contains (lw, lh)

/-- Q of R160. -/
def Field.perDie (f : Field) : Nat :=
  let term (total n : Nat) : Nat := if n = 0 then 32 else total / roundUp4 n
  8 / 2 ^ f.lw * (4 / 2 ^ f.lh) * min (32 / (f.nstr + 1)) (min (term 256 f.g) (min (term 256 f.w) (min (term 512 f.a) (term 256 f.c))))

/-- The capacity of the package for a field (R160). -/
def State.capacity (s : State) (f : Field) : Nat := s.ddb.dies.length * f.perDie

/-- Places n gangs of a field first-fit over dies, in a trial (R189). -/
def trialPlace (dies : List (Fin 8)) (f : Field) : Nat → List Room → Option (List Room)
  | 0, used => some used
  | n + 1, used =>
    match dies.findSome? (fun d => (firstOrigin used f d).map (fun o => rectangle d o.1 o.2 f.lw f.lh)) with
    | some cores => trialPlace dies f n (used ++ cores.map f.room)
    | none => none

/-- The live compute dies, ascending. -/
def State.liveDies (s : State) : List (Fin 8) := (List.finRange 8).filter (fun d => s.ddb.dies.contains d.val)

/-- The trial placement of a co-scheduled field beside its set's resident and saved members (R189). -/
def State.trialFits (s : State) (f : Field) : Bool :=
  let members := s.fields.filter (fun g => g.cls == 0 && g.cosched && g.asid == f.asid)
  let resident := (s.crews.filter (fun k => members.any (fun g => g.block == k.gang.block && g.asid == k.gang.asid))).map Crew.room
  let start := members.foldl (fun (used : Option (List Room)) g => used.bind (trialPlace s.liveDies g g.saved.length)) (some resident)
  match start with
  | some used => (trialPlace s.liveDies f (f.fx * f.fy) used).isSome
  | none => false

/-- The lowest free index for crew strand j, first among those with r mod 4 = j mod 4 (R162). -/
def takeIndex (used : List (Fin 32)) (j : Nat) : Fin 32 :=
  let free := (List.finRange 32).filter (fun r => !used.contains r)
  ((free.find? (fun r => r.val % 4 == j % 4)).or free.head?).getD 0

/-- The resident strand indices of a crew of n strands. -/
def takeIndices (used : List (Fin 32)) (n : Nat) : List (Fin 32) :=
  (List.range n).foldl (fun (acc : List (Fin 32)) j => acc ++ [takeIndex (used ++ acc) j]) []

/-- Indices in use on a core. -/
def State.usedIndices (s : State) (core : CoreId) : List (Fin 32) := (s.crews.filter (fun k => k.core == core)).flatMap (fun k => k.rss)

/-- The class-0 field that admits (R506). DEDUCED, unsafe: log 59. -/
def State.admitting (s : State) : Option Field := s.fields.find? (fun f => f.window && f.cls == 0 && !f.go)

/-! ## Entry of a gang (R163) -/

/-- A crew at entry, its buffers zero. -/
def Field.crew (f : Field) (gang : GangId) (peer : Nat) (core : CoreId) (rss : List (Fin 32)) : Crew :=
  { gang, peer, core, rss, g := f.g, w := f.w, a := f.a, c := f.c, mg := [], mw := [], ma := [], mc := [], qbase := 0, qdefs := [], requests := [], served := []
    pushers := [], poppers := [], tapers := [], lockWaiters := [] }

/-- The role of a crew strand (R152, R156). -/
def Field.role (f : Field) (j : Nat) : BitVec 2 := f.roles.extractLsb' (2 * j) 2

/-- The strands of a crew at entry. -/
def Field.strandsAt (f : Field) (clock : Nat) (hold : Bool) (gang : GangId) (peer : Nat) (core : CoreId) (rss : List (Fin 32)) : List Strand :=
  rss.mapIdx (fun j r =>
    let who : Ident := { id := ⟨core, r⟩, gang, gx := gang.index % f.fx, gy := gang.index / f.fx, lw := f.lw, lh := f.lh, peer, cs := j, crewn := f.nstr
                         role := f.role j }
    (Strand.entry who f.entry f.lcb f.args f.tvec f.asid f.prio f.lane0).withSched (fun k => { k with hold, readyAt := clock }))

/-- The crews of a field's gang at an origin, with the indices that their cores give them (R162). -/
def State.crewsAt (s : State) (f : Field) (gang : GangId) (die : Fin 8) (o : Nat × Nat) : List Crew :=
  (rectangle die o.1 o.2 f.lw f.lh).mapIdx (fun peer core => f.crew gang peer core (takeIndices (s.usedIndices core) (f.nstr + 1)))

/-- Where a gang of a field can be placed on a die now: the first origin at which it fits, none of its regions on a gated bank (R161, R263). -/
def State.originFor (s : State) (f : Field) (die : Fin 8) : Option (Nat × Nat) :=
  (origins f.lw f.lh).find? (fun o => (rectangle die o.1 o.2 f.lw f.lh).all (fun c => takes s.rooms (f.room c)) &&
    (s.crewsAt f ⟨f.block, f.asid, 0⟩ die o).all (fun k => !k.onBanks (s.core k.core).gated))

/-- A gang enters its cores: what their L1s and fetch paths hold of its ASID is older than the launch and goes (R20, R304, R318, R480). -/
def State.enterCores (s : State) (gang : GangId) (cores : List CoreId) : State :=
  cores.foldl (fun (s : State) c =>
    let s := s.acquireAt c gang gang.asid 3
    s.setCore c { s.core c with fetch := (s.core c).fetch.filter (fun l => l.asid != gang.asid) }) s

/-- A field and its co-schedule set (R188, R189). -/
def State.setOf (s : State) (f : Field) : List Field :=
  s.fields.filter (fun g => (g.block == f.block && g.asid == f.asid) || (f.cosched && g.cosched && g.cls == 0 && g.asid == f.asid))

/-- The strands of a gang may issue: it is not ending or draining, its crews stand on no waking bank (R264), and of a class-0 field every gang is
reserved (R187, R506) and no gang of the field's co-schedule set is saved (R188, R189). -/
def State.gangMayRun (s : State) (k : Gang) : Bool :=
  !k.ending && !k.draining &&
    (s.crews.filter (fun c => c.gang == k.id)).all (fun c => !c.onBanks (s.core c.core).waking) &&
    (match s.fieldOf k.id with
     | some f => f.cls != 0 || (f.go && (s.setOf f).all (fun g => g.saved.isEmpty))
     | none => true)

/-- Held strands of gangs that may run issue again; they are ready from now on (R165, R168). -/
def State.letIssue (s : State) : State :=
  s.modifyAll (fun x => x.sch.hold && !x.sch.retired && (s.gangOf x.who.gang).any s.gangMayRun)
    (fun x => x.withSched (fun k => { k with hold := false, readyAt := s.clock }))

/-- Places gang t of a field at an origin: crews, indices, strands, in one step (R161–R163). The strands issue once the gang may run. -/
def State.placeGang (s : State) (f : Field) (t : Nat) (die : Fin 8) (o : Nat × Nat) : State :=
  let gang : GangId := ⟨f.block, f.asid, t⟩
  let crews := s.crewsAt f gang die o
  ({ s with
     gangs := s.gangs ++ [{ id := gang, die, x0 := o.1, y0 := o.2, lw := f.lw, lh := f.lh, nstr := f.nstr, cls := f.cls, ending := false
                            draining := false, recorded := false, fatal := none }]
     crews := s.crews ++ crews
     rest := s.rest ++ crews.flatMap (fun k => f.strandsAt s.clock true gang k.peer k.core k.rss) } : State).enterCores gang
    (crews.map (fun k => k.core)) |>.letIssue

/-! ## The completion word (R158) -/

/-- Writes a refusal: bit 63 and the reason, in the upper half of the word; false when the write faults. -/
def State.refuse (s : State) (block : Word64) (asid : BitVec 16) (reason : Nat) : State × Bool :=
  s.homeSet (block.toNat + 0x3C) asid true 4 (2 ^ 31 + reason)

/-- An entry or a refusal is dropped: LLDROP and MSI-X vector 2 (R504). -/
def State.dropEntry (s : State) : State := ({ s with host := { s.host with llDrop := s.host.llDrop + 1 } } : State).raise 2

/-- The host ring's entry in execution completes: status, then HCRHEAD (R501). -/
def State.ringDone (s : State) (status : Nat) : State :=
  let h := s.host
  let entries := 2 ^ h.hcrSize.toNat
  let at' := h.hcrBase.toNat + 32 * (h.hcrHead.toNat % entries)
  ({ s with host := { h with mem := h.mem.write (at' + 1) (BitVec.ofNat 8 status), hcrHead := BitVec.ofNat 64 ((h.hcrHead.toNat + 1) % entries) } } : State).raise 1

/-! ## End of a gang (R185) -/

/-- An access that must be answered before its gang leaves: not a prefetch, and not a request for a translation alone. -/
def Access.counts (a : Access) : Bool := match a.kind with | .prefetch _ => false | .operation => a.entry | _ => true

/-- A gang has nothing in flight: no chain, no access and no engine command. -/
def State.gangQuiet (s : State) (g : GangId) : Bool :=
  !s.strands.any (fun x => x.who.gang == g && x.chainOpen) &&
  !s.access.any (fun a => a.gang == g && a.counts && !a.isFaulted && !s.heldBack a) &&
  s.cores.all (fun e => !e.2.copies.any (fun k => k.gang == g) && !e.2.near.any (fun k => k.gang == g) &&
    !e.2.analog.any (fun k => k.gang == g) && !e.2.dme.queue.any (fun k => k.gang == g))

/-- Ownership of a matrix engine ends with its owner's gang, both planes empty (R363). -/
def Dme.forget (d : Dme) (g : GangId) : Dme :=
  let d := { d with waiting := d.waiting.filter (fun w => w.crew.1 != g), queue := d.queue.filter (fun k => k.gang != g) }
  match d.owner with
  | some o => if o.1 = g then { d with owner := none, granted := none, active := .empty, shadow := .empty } else d
  | none => d

/-- The strands, crews and engine shares of a gang are freed (R185 step 3). -/
def State.freeGang (s : State) (g : GangId) : State :=
  let s := s.dropStrands (fun x => x.who.gang == g)
  let s := s.mapCores (fun c => { c with dme := c.dme.forget g, stalled := c.stalled.filter (fun e => s.strands.any (fun x => x.isId e.2.1)) })
  { s with crews := s.crews.filter (fun k => k.gang != g), gangs := s.gangs.filter (fun k => k.id != g)
           access := s.access.filter (fun a => a.gang != g) }

/-- A field with no gang, no saved gang and no place in the window is gone. -/
def State.dropFields (s : State) : State :=
  { s with fields := s.fields.filter (fun f => f.window || !f.saved.isEmpty || f.ended.isSome || s.gangs.any (fun g => g.id.block == f.block && g.id.asid == f.asid)) }

/-- The completion word of an ended field says so once the last of its gangs has gone (R158, R501, R505). A word that faults is not written:
LLDROP counts the one of a faulting claim. -/
def State.fieldEnded (s : State) (block : Word64) (asid : BitVec 16) : State :=
  match (s.fields.find? (fun f => f.block == block && f.asid == asid)).bind (fun f => f.ended) with
  | none => s
  | some reason =>
    if s.gangs.any (fun k => k.id.block == block && k.id.asid == asid) then s
    else
      let r := s.refuse block asid reason
      let s := r.1.modifyField block asid (fun f => { f with ended := none })
      let s := if reason = 0x0B then (if r.2 then s else { s with host := { s.host with llDrop := s.host.llDrop + 1 } }).raise 2 else s
      if s.host.ending = some (block, asid) then ({ s with host := { s.host with ending := none } } : State).ringDone 0 else s

/-- GANG_RETIRE: when every strand has retired and every write is performed, the completion word counts the gang, and its strands and
buffers are freed (R185, R476); a fatal record that waited for the host is written first (R452). The count waits while the host's translation of its page is on its way (R530, R532). The spec names no outcome of a count that
faults: the gang is freed without it. DESIGN CHOICE, unsafe: log 91. -/
def execGangRetire (g : GangId) (s : State) : Out :=
  .next (match s.gangOf g with
    | none => s
    | some k =>
      let all := (s.strands.filter (fun x => x.who.gang == g)).all (fun x => x.sch.retired)
      if !all || k.draining || !s.gangQuiet g then s
      else match k.fatal with
      | some e => s.fatalLater k e
      | none => match s.pageReady g.asid (g.block.toNat + 0x38) needBoth with
        | (s, false) => s
        | (s, true) =>
          let s := s.gauWriteBack k.die true (fun l => l.gang == g)
          let s := (s.homeRmw (g.block.toNat + 0x38) g.asid true 4 (fun n => n + 1)).1
          ((s.freeGang g).fieldEnded g.block g.asid).dropFields)

end Sys2Proof.Machine
end

