-- ==== Sys2Proof/Machine/Preempt.lean ====
section
/-! DEFINITION. Pre-emption: drain, save and restore of a gang (R188, R190, R360, R383, R407, R438, R477–R483). -/

namespace Sys2Proof.Machine

/-! ## The save area (R479) -/

/-- Bytes of a buffer region in a core record. -/
def regionBytes (kib : Nat) : Nat := roundUp4 kib * 1024

/-- Bytes of one core's record, and of one strand block. -/
def strandBlockBytes : Nat := 0x13000
def coreRecordBytes (nstr g w a c : Nat) : Nat :=
  0x4000 + (nstr + 1) * strandBlockBytes + regionBytes g + regionBytes w + regionBytes a + regionBytes c

/-- The record of a crew of a gang. -/
def Crew.recordBase (k : Crew) (area nstr cores : Nat) : Nat :=
  area + (k.gang.index * cores + k.peer) * coreRecordBytes nstr k.g k.w k.a k.c

/-- Two 32-bit words as a dword. -/
def pairWord (lo hi : Word32) : Word64 := hi ++ lo

/-- The dwords of a strand block that the spec lays out, with their offsets. -/
def State.strandBlock (s : State) (x : Strand) : List (Nat × Word64) :=
  let t := { s with me := x }
  let lane (f : Lane → Word32) (i : Nat) : Word64 := pairWord (f (Fin.ofNat 96 (2 * i))) (f (Fin.ofNat 96 (2 * i + 1)))
  (List.range 64).map (fun i => ((8 * i, x.s[Fin.ofNat 64 i]) : Nat × Word64)) ++
  (List.range 64).map (fun n => ((0x200 + 8 * n, if n = 0 then 0 else (t.sysRead n).getD 0) : Nat × Word64)) ++
  (List.range 8).flatMap (fun k => [(0x400 + 16 * k, (x.lf.m[Fin.ofNat 8 k]).setWidth 64), (0x408 + 16 * k, ((x.lf.m[Fin.ofNat 8 k]) >>> 64).setWidth 64)]) ++
  [(0x480, x.lf.tag.setWidth 64), (0x488, (x.lf.tag >>> 64).setWidth 64), (0x490, x.sy.flags.setWidth 64), (0x498, x.sy.seed.setWidth 64)] ++
  (List.range 4).map (fun n => (0x4A0 + 8 * n, x.tr.scratch[Fin.ofNat 4 n])) ++
  (List.range 40).map (fun n => (0x4C0 + 8 * n, 0)) ++
  (List.range 48).map (fun i => (0x600 + 8 * i, lane (fun l => x.lf.gen[l]) i)) ++
  (List.range 128).flatMap (fun n => (List.range 48).map (fun i => (0x1000 + 384 * n + 8 * i, lane (fun l => (x.lf.v[Fin.ofNat 128 n])[l]) i))) ++
  (List.range 32).flatMap (fun n => (List.range 96).map (fun l => (0xD000 + 768 * n + 8 * l, (x.lf.a[Fin.ofNat 32 n])[Fin.ofNat 96 l])))

/-- The dwords of a region. -/
def regionBlock (m : Mem) (base kib : Nat) : List (Nat × Word64) :=
  (List.range (128 * kib)).map (fun i => (base + 8 * i, BitVec.ofNat 64 (ofLe (m.bytes (8 * i) 8))))

/-- Offsets of the regions in a core record. -/
def regionBases (nstr g w a : Nat) : Nat × Nat × Nat × Nat :=
  let g0 := 0x4000 + (nstr + 1) * strandBlockBytes
  (g0, g0 + regionBytes g, g0 + regionBytes g + regionBytes w, g0 + regionBytes g + regionBytes w + regionBytes a)

/-- The dwords whose format belongs to the implementation: the core header with the engine state, and a strand's lane queue, held runs, done sets,
replay list and pending marks. What they hold is open. DEDUCED, unsafe: log 60. -/
def State.openDwords (s : State) (base n : Nat) : List (Nat × Word64) :=
  (List.range n).map (fun i => (base + 8 * i, Config.recordDword s.fresh (base / 8 + i)))

/-- Everything the save writes for a crew, in ascending order. -/
def State.crewBlock (s : State) (k : Crew) (area nstr cores : Nat) : List (Nat × Word64) :=
  let base := k.recordBase area nstr cores
  let strands := s.strands.filter (fun x => x.who.gang == k.gang && x.who.peer == k.peer)
  let b := regionBases nstr k.g k.w k.a
  let block (x : Strand) : Nat := base + 0x4000 + x.who.cs * strandBlockBytes
  s.openDwords base 0x800 ++
    strands.flatMap (fun x => (s.strandBlock x).map (fun p => (block x + p.1, p.2)) ++ s.openDwords (block x + 0x800) 0x100) ++
    regionBlock k.mg (base + b.1) k.g ++ regionBlock k.mw (base + b.2.1) k.w ++ regionBlock k.ma (base + b.2.2.1) k.a ++
    regionBlock k.mc (base + b.2.2.2) k.c

/-- What the read of a field's save area base gives (R450): the base, 0 for a field that cannot be pre-empted; a wait for the host; a fault. -/
inductive AreaRead where
  | base (a : Nat)
  | wait
  | fault (c : Cause)
  deriving DecidableEq, Repr

/-- The save area base of a field's control block, read at device scope in the field's ASID (R450). -/
def State.saveArea (s : State) (f : Field) : State × AreaRead :=
  if f.controlBlock = 0 then (s, .base 0)
  else match s.pageReady f.asid f.controlBlock.toNat needRead with
    | (s, false) => (s, .wait)
    | (s, true) => match s.homeFull f.controlBlock.toNat f.asid needRead true 0 8 (fun _ => none) with
      | (s, .done old _ _ _) => (s, .base (ofLe old))
      | (s, .fault c) => (s, .fault c)
      | (s, _) => (s, .fault pageFault)

/-! ## Drain and save (R478, R482) -/

/-- Nothing of a strand is in progress: its chain and lane instructions have ended, or stopped at a fault that waits for its trap (R459). -/
def State.drainedStrand (s : State) (x : Strand) : Bool :=
  x.redo.isEmpty && ((!x.chainOpen && x.lq.ops.all (fun o => o.act &&& ~~~o.arrived == 0)) || s.laneFaultDue x)

/-- The access is one of those that the drain leaves: it faulted in a lane, or stands behind one that did (R459, R478); or it is a lock
instruction's that its home refused, whose strand leaves the wait and executes it again after the restore (R212, R478). -/
def State.leftForTrap (s : State) (a : Access) : Bool :=
  (!a.isScalar && ((a.isFaulted && (s.strand a.strand).any (fun x => x.told a)) || s.heldBack a)) || (a.isFaulted && a.kind.locks)

/-- Steps 1 to 4 are complete: no chain is unfinished, no access is unanswered but those that a fault holds, and no `lcopy` and no chunk in
progress can go on (R360, R383). -/
def State.drainedGang (s : State) (g : GangId) : Bool :=
  (s.strands.filter (fun x => x.who.gang == g)).all s.drainedStrand &&
  !s.access.any (fun a => a.gang == g && a.counts && a.status != .waiter && !s.leftForTrap a) &&
  s.cores.all (fun e => !e.2.copies.any (fun k => k.gang == g && (k.kind == 2 || k.begun) && s.copyFree k) &&
    !e.2.dme.queue.any (fun k => k.gang == g && k.begun && k.state != .faulted))

/-- A lane fault found in the drain goes to the strand's record: the runs stand where the fault's delivery finds them, after restore. -/
def Strand.quiet (x : Strand) : Strand :=
  { x with seen := []
           sch := { x.sch with slot := none, entered := false, parked := false, wait := .none, woken := false, offer := 0, laneEligible := false, blocked := 0, wick := 0, promoted := false
                               starved := false, issuedNow := false } }

/-- The peer index of a core in a gang. -/
def State.peerAt (s : State) (g : GangId) (c : CoreId) : Nat :=
  match s.crews.find? (fun k => k.gang == g && k.core == c) with | some k => k.peer | none => 0

/-- A command that is not stopped by a fault is queued again at restore, with its progress (R360, R407). -/
def Progress.saved (p : Progress) : Progress := match p with | .faulted => .faulted | _ => .queued

/-- The commands of a gang that have not completed, by peer; near-memory operations that have begun run on at their core (R438). -/
def State.takeSaved (s : State) (k : Gang) : Saved :=
  let mine := s.cores.filter (fun e => s.crews.any (fun c => c.gang == k.id && c.core == e.1))
  { gang := { k with draining := false, recorded := false }
    access := s.access.filter (fun a => a.gang == k.id && a.kind.ordered && s.leftForTrap a)
    crews := s.crews.filter (fun c => c.gang == k.id)
    strands := (s.strands.filter (fun x => x.who.gang == k.id)).map Strand.quiet
    copies := mine.flatMap (fun e => (e.2.copies.filter (fun j => j.gang == k.id)).map (fun j => (s.peerAt k.id e.1, { j with state := j.state.saved })))
    dmes := mine.filterMap (fun e => if (e.2.dme.owner.map (fun o => o.1)) = some k.id then
      some (s.peerAt k.id e.1, { e.2.dme with waiting := [], granted := none, queue := e.2.dme.queue.filter (fun j => j.gang == k.id) }) else none)
    analog := mine.flatMap (fun e => (e.2.analog.filter (fun j => j.gang == k.id)).map (fun j => (s.peerAt k.id e.1, { j with state := j.state.saved })))
    near := mine.flatMap (fun e => (e.2.near.filter (fun j => j.gang == k.id && !j.executing)).map (fun j => (s.peerAt k.id e.1, j))) }

/-- Commands of a gang leave the queues, but for near-memory operations that have begun. -/
def Core.release (c : Core) (g : GangId) : Core :=
  { c with copies := c.copies.filter (fun j => j.gang != g), analog := c.analog.filter (fun j => j.gang != g)
           near := c.near.filter (fun j => j.gang != g || j.executing), dme := c.dme.forget g }

/-- The gangs that the request named are freed together, once each of them is recorded or has ended (R188, R478 step 6). A gang that ended in its
drain is no longer resident, and a request that saved none answers so. DEDUCED, unsafe: log 62. -/
def State.freeSaved (s : State) : State :=
  let gangs := s.gangs.filter (fun k => s.host.draining.contains k.id)
  if gangs.all (fun k => k.recorded) then
    let s := gangs.foldl (fun (s : State) k =>
      let v := s.takeSaved k
      let s := (s.mapCores (fun c => c.release k.id)).freeGang k.id
      s.modifyField k.id.block k.id.asid (fun f => { f with saved := f.saved ++ [v], window := true })) s
    ({ s with host := { s.host with draining := [] } } : State).ringDone (if gangs.isEmpty then 3 else 0)
  else s

/-- A gang ended in its drain: it is not saved. -/
def State.drainEnded (s : State) (g : GangId) : State :=
  let s := s.modifyGang g (fun k => { k with draining := false, recorded := false })
  ({ s with host := { s.host with draining := s.host.draining.filter (fun k => k != g) } } : State).freeSaved

/-- A save write faulted: the pre-emption is abandoned, and every gang of the request issues again from its drained state (R482). -/
def State.abandonSave (s : State) : State :=
  let s := { s with gangs := s.gangs.map (fun (k : Gang) => if s.host.draining.contains k.id then { k with draining := false, recorded := false } else k) }
  (({ s with host := { s.host with draining := [] } } : State).letIssue).ringDone 2

/-- Step 6 of R478 for one gang: its record. -/
def State.recordGang (s : State) (k : Gang) (f : Field) (area : Nat) : State :=
  let words := (s.crews.filter (fun c => c.gang == k.id)).flatMap (fun c => s.crewBlock c area k.nstr (2 ^ k.lw * 2 ^ k.lh))
  match s.pagesReady f.asid needWrite (words.map (fun p => p.1 / 65536 * 65536)).eraseDups with
  | (s, false) => s
  | (s, true) =>
    match ({ s with fresh := s.fresh + 1 } : State).homeSetAll f.asid true words with
    | (s, false) => s.abandonSave
    | (s, true) => (s.modifyGang k.id (fun k => { k with recorded := true })).freeSaved

/-- PRE_EMPTION_DRAIN: once steps 1 to 4 are complete, waits are left, the gang's GAU lines written back and its record saved; the gangs of one
request leave together. A control block that cannot be read and a save write that faults abandon the pre-emption (R188, R478, R482). -/
def execPreEmptionDrain (g : GangId) (s : State) : Out :=
  .next (match s.gangOf g, s.fieldOf g with
    | some k, some f =>
      if !k.draining || k.recorded || !s.drainedGang g then s
      else if k.ending then s.drainEnded g
      else
        match s.saveArea f with
        | (s, .wait) => s
        | (s, .fault _) => s.abandonSave
        | (s, .base area) =>
          let s := (s.strands.filter (fun x => x.who.gang == g)).foldl (fun (s : State) x => s.leaveWait x) s
          (s.gauWriteBack k.die true (fun l => l.gang == g)).recordGang k f area
    | _, _ => s)

/-! ## Restore (R480, R482) -/

/-- n dwords from an address; none when one cannot be read, with the address. -/
def State.readDwords (s : State) (asid : BitVec 16) (a : Nat) (acc : List Word64) : Nat → State × Except (Nat × BitVec 8) (List Word64)
  | 0 => (s, .ok acc.reverse)
  | n + 1 =>
    match s.homeFull a asid needRead true 0 8 (fun _ => none) with
    | (s, .done old _ _ _) => s.readDwords asid (a + 8) (BitVec.ofNat 64 (ofLe old) :: acc) n
    | (s, .fault c) => (s, .error (a, c))
    | (s, _) => (s, .error (a, pageFault))

/-- The registers below 0x040 that a strand block restores through their own layout. -/
def blockRegisters : List Nat :=
  [0x001, 0x002, 0x008, 0x009, 0x00A, 0x00B, 0x010, 0x011, 0x012, 0x014, 0x015, 0x016, 0x018, 0x019, 0x01A, 0x034, 0x035, 0x038, 0x039, 0x03A, 0x03C, 0x03D]

/-- A saved strand with the registers that its block holds. DEDUCED, unsafe: log 60. -/
def Strand.unblock (x : Strand) (ws : List Word64) : Strand :=
  let w (o : Nat) : Word64 := ws.getD (o / 8) 0
  let half (o : Nat) : Word32 := (w (o / 8 * 8) >>> (8 * (o % 8))).setWidth 32
  let y := blockRegisters.foldl (fun (y : Strand) r => y.sysSet r (w (0x200 + 8 * r) &&& (userBits r ||| supervisorBits r))) x
  let status := w (0x200 + 8 * 3)
  let prio := w (0x200 + 8 * 0x10)
  { y with
    s := Vector.ofFn (fun i : Fin 64 => w (8 * i.val))
    lf := { v := Vector.ofFn (fun n : Fin 128 => lanes (fun l => half (0x1000 + 384 * n.val + 4 * l.val)))
            tag := (w 0x488).setWidth 64 ++ (w 0x480).setWidth 64
            a := Vector.ofFn (fun n : Fin 32 => lanes (fun l => w (0xD000 + 768 * n.val + 8 * l.val)))
            m := Vector.ofFn (fun k : Fin 8 => (w (0x408 + 16 * k.val)).setWidth 32 ++ w (0x400 + 16 * k.val))
            x := x.lf.x
            gen := lanes (fun l => half (0x600 + 4 * l.val)) }
    tr := { y.tr with sup := status.getLsbD 0, lane := status.getLsbD 1, held := wordBits status 15 12, elpc := w (0x200 + 8 * 0xC) &&& ones 63 2
                      edone := (w (0x200 + 8 * 0x1E)).setWidth 32 ++ ((w (0x200 + 8 * 0x1D)).setWidth 32 ++ (w (0x200 + 8 * 0x1C)).setWidth 32)
                      scratch := Vector.ofFn (fun n : Fin 4 => w (0x4A0 + 8 * n.val)) }
    sy := { y.sy with flags := (w 0x490).setWidth 5, seed := (w 0x498).setWidth 32 }
    sch := { y.sch with paused := prio.extractLsb' 16 16 } }

/-- The bytes of dwords. -/
def bytesOf (ws : List Word64) : List Byte := ws.flatMap (fun w => leBytes 8 w.toNat)

/-- Reads the strand blocks of a crew into its saved strands. -/
def State.readStrands (s : State) (asid : BitVec 16) (base : Nat) (acc : List Strand) : List Strand → State × Except (Strand × Nat × BitVec 8) (List Strand)
  | [] => (s, .ok acc)
  | x :: rest =>
    match s.readDwords asid (base + 0x4000 + x.who.cs * strandBlockBytes) [] (strandBlockBytes / 8) with
    | (s, .ok ws) => s.readStrands asid base (acc ++ [x.unblock ws]) rest
    | (s, .error (a, c)) => (s, .error (x, a, c))

/-- Reads a region. -/
def State.readRegion (s : State) (asid : BitVec 16) (base kib : Nat) : State × Except (Nat × BitVec 8) Mem :=
  match s.readDwords asid base [] (128 * kib) with
  | (s, .ok ws) => (s, .ok (Mem.writeBytes [] 0 (bytesOf ws)))
  | (s, .error e) => (s, .error e)

/-- Reads the regions of a crew; QBASE is that of crew strand 0. -/
def State.readRegions (s : State) (asid : BitVec 16) (base nstr : Nat) (k : Crew) : State × Except (Nat × BitVec 8) Crew :=
  let b := regionBases nstr k.g k.w k.a
  match s.readRegion asid (base + b.1) k.g with
  | (s, .error e) => (s, .error e)
  | (s, .ok mg) =>
    match s.readRegion asid (base + b.2.1) k.w with
    | (s, .error e) => (s, .error e)
    | (s, .ok mw) =>
      match s.readRegion asid (base + b.2.2.1) k.a with
      | (s, .error e) => (s, .error e)
      | (s, .ok ma) =>
        match s.readRegion asid (base + b.2.2.2) k.c with
        | (s, .error e) => (s, .error e)
        | (s, .ok mc) =>
          match s.readDwords asid (base + 0x4000 + 0x200 + 8 * 0x20) [] 1 with
          | (s, .ok [q]) => (s, .ok { k with mg, mw, ma, mc, qbase := q.extractLsb' 10 8 })
          | (s, .ok _) => (s, .ok k)
          | (s, .error e) => (s, .error e)

/-- Reads every crew of a saved gang, its core header first: the crews and strands, or the strand that a fault's record names, which is crew
strand 0 for the header and the regions (R452). -/
def State.readCrews (s : State) (v : Saved) (area : Nat) (cs : List Crew) (xs : List Strand) :
    List Crew → State × Except (Strand × Nat × BitVec 8) (List Crew × List Strand)
  | [] => (s, .ok (cs, xs))
  | k :: rest =>
    let base := k.recordBase area v.gang.nstr (2 ^ v.gang.lw * 2 ^ v.gang.lh)
    let mine := v.strands.filter (fun x => x.who.peer == k.peer)
    let first := (mine.find? (fun x => x.who.cs == 0)).getD .nobody
    match s.readDwords k.gang.asid base [] 0x800 with
    | (s, .error e) => (s, .error (first, e.1, e.2))
    | (s, .ok _) =>
      match s.readStrands k.gang.asid base [] mine with
      | (s, .error e) => (s, .error e)
      | (s, .ok ys) =>
        match s.readRegions k.gang.asid base v.gang.nstr k with
        | (s, .error e) => (s, .error (first, e.1, e.2))
        | (s, .ok k) => s.readCrews v area (cs ++ [k]) (xs ++ ys) rest

/-- The new place of a saved strand. -/
def newPlace (crews : List Crew) (peer cs : Nat) (old : StrandId) : StrandId :=
  match crews.find? (fun k => k.peer == peer) with
  | some k => match k.rss[cs]? with
    | some r => ⟨k.core, r⟩
    | none => old
  | none => old

/-- Puts the engine commands of a saved gang back on its new cores, behind those queued there. -/
def State.requeue (s : State) (v : Saved) (crews : List Crew) (place : StrandId → StrandId) : State :=
  crews.foldl (fun (s : State) k =>
    let c := s.core k.core
    let mine {α : Type} (l : List (Nat × α)) : List α := (l.filter (fun p => p.1 == k.peer)).map (·.2)
    let reload (p : Plane) : Plane := if p.loaded then loadPlane (some k) p.mode p.off else p
    let dme := match mine v.dmes with
      | d :: _ => { d with active := reload d.active, shadow := reload d.shadow, waiting := c.dme.waiting
                           queue := d.queue.map (fun j => { j with strand := place j.strand }) }
      | [] => c.dme
    s.setCore k.core { c with
      copies := c.copies ++ (mine v.copies).map (fun j => { j with strand := place j.strand })
      analog := c.analog ++ (mine v.analog).map (fun j => { j with strand := place j.strand })
      near := c.near ++ (mine v.near).map (fun j => { j with strand := place j.strand })
      dme := dme }) s

/-- An access of a saved strand, at the strand's new place. -/
def Access.at (place : StrandId → StrandId) (a : Access) : Access := { a with strand := place a.strand }

/-- A saved strand at its new place, held until its gang may run. Operations that completed meanwhile are counted in the record that restore
uses (R438). -/
def restoreStrand (clock : Nat) (place : StrandId → StrandId) (x : Strand) : Strand :=
  ({ x with who := { x.who with id := place x.who.id }, replay := x.replay.map (Access.at place), behind := x.behind.map (Access.at place)
            failed := x.failed.map (Access.at place) } : Strand).withSched (fun k => { k with hold := true, readyAt := clock })

/-- The matrix engines that a saved gang owned are free on its new cores, and the queues there have room for its commands (R341, R363, R394, R429). The spec
does not say what a restore does where another crew owns the engine: the model restores the gang elsewhere or later. DESIGN CHOICE, unsafe:
log 104. -/
def State.enginesFree (s : State) (v : Saved) (cores : List CoreId) : Bool :=
  v.dmes.all (fun p => match cores[p.1]? with | some c => (s.core c).dme.owner.isNone | none => true) &&
  cores.zipIdx.all (fun e =>
    let c := s.core e.1
    let mine := (v.copies.filter (fun q => q.1 == e.2)).map (·.2)
    let count (l : List CopyCmd) (lane : Bool) : Nat := (l.filter (fun k => (k.kind == 2) == lane)).length
    decide (count c.copies false + count mine false ≤ 32) && decide (count c.copies true + count mine true ≤ 64) &&
      decide (c.analog.length + (v.analog.filter (fun q => q.1 == e.2)).length ≤ 32) &&
      decide (c.near.length + (v.near.filter (fun q => q.1 == e.2)).length ≤ 16))

/-- A saved gang enters at an origin with its record read, on cores whose caches hold nothing of it (R480, R483). -/
def State.enterSaved (s : State) (v : Saved) (die : Fin 8) (o : Nat × Nat) (crews : List Crew) (strands : List Strand) : State :=
  let cores := rectangle die o.1 o.2 v.gang.lw v.gang.lh
  let crews := crews.map (fun k =>
    let core := cores.getD k.peer k.core
    { k with core, rss := takeIndices (s.usedIndices core) (v.gang.nstr + 1) })
  let place (old : StrandId) : StrandId :=
    match v.strands.find? (fun x => x.who.id == old) with
    | some x => newPlace crews x.who.peer x.who.cs old
    | none => old
  let s := s.requeue v crews place
  ({ s with gangs := s.gangs ++ [{ v.gang with die, x0 := o.1, y0 := o.2 }], crews := s.crews ++ crews
            access := s.access ++ v.access.map (Access.at place)
            rest := s.rest ++ strands.map (restoreStrand s.clock place) } : State).enterCores v.gang.id cores

/-- Saved gangs restored before this one: of a parallel or weak field those with lower index (R190, R505). -/
def Field.lowestSaved (f : Field) (g : GangId) : Bool := f.saved.all (fun v => decide (g.index ≤ v.gang.id.index))

/-- Where a saved gang fits on a die now: an origin, with the matrix engines that it owned free there. -/
def State.originSaved (s : State) (f : Field) (v : Saved) (die : Fin 8) : Option (Nat × Nat) :=
  (s.originFor f die).bind (fun o => if s.enginesFree v (rectangle die o.1 o.2 f.lw f.lh) then some o else none)

/-- Crew strand 0 of a saved gang's first core, whose identity the record of a fault outside the strand blocks has (R452). -/
def Saved.first (v : Saved) : Strand := (v.strands.find? (fun x => x.who.peer == 0 && x.who.cs == 0)).getD .nobody

/-- A restore read has faulted: a fatal record of kind 4 with the faulting address, and the host's interrupt (R452, R482). While the record's page
waits for the host, nothing is written: the restore is tried again. -/
def State.unreadRecord (s : State) (v : Saved) (x : Strand) (a : Nat) (c : BitVec 8) : State :=
  let e := s.fatalEvent x 4 c.toNat (BitVec.ofNat 64 a) 0 0
  match s.fatalReady v.gang.id.asid e with
  | (s, true) => (s.writeFatal v.gang.id.asid e).raise 0
  | (s, false) => s

/-- Restores a saved gang of a field at an origin of a die (R480); false when a read faults: a fatal record of kind 4 is written and the gang stays
saved (R482). DEDUCED, unsafe: log 61. -/
def State.restoreGang (s : State) (f : Field) (v : Saved) (die : Fin 8) (o : Nat × Nat) : State × Bool :=
  match s.saveArea f with
  | (s, .wait) => (s, false)
  | (s, .fault c) => (s.unreadRecord v v.first f.controlBlock.toNat c, false)
  | (s, .base area) =>
    match s.readCrews v area [] [] v.crews with
    | (s, .error (x, a, c)) => (s.unreadRecord v x a c, false)
    | (s, .ok (crews, strands)) =>
      let s := s.enterSaved v die o crews strands
      (s.modifyField f.block f.asid (fun f =>
        { f with saved := f.saved.filter (fun u => u.gang.id != v.gang.id)
                 window := f.window && !(f.claimed && (f.saved.filter (fun u => u.gang.id != v.gang.id)).isEmpty) }), true)

/-- What the restore of a set of gangs gives: the state with all of them restored, no room for one of them, or a record that could not be read. -/
inductive Restored where
  | all (s : State)
  | noRoom
  | unread (s : State)

/-- Restores gangs one after another, each at the first live die, and there the first origin, where it fits. -/
def State.restoreAll (s : State) : List (Field × Saved) → Restored
  | [] => .all s
  | (f, v) :: rest =>
    match s.liveDies.findSome? (fun d => (s.originSaved f v d).map (fun o => (d, o))) with
    | none => .noRoom
    | some (d, o) =>
      match s.restoreGang f v d o with
      | (s, true) => s.restoreAll rest
      | (s, false) => .unread s

/-- The saved gangs of a class-0 field's co-schedule set, which return together (R188, R189, R480). -/
def State.savedSet (s : State) (f : Field) : List (Field × Saved) := (s.setOf f).flatMap (fun g => g.saved.map (fun v => (g, v)))

/-- A saved gang can be restored with its place on a die; a class-0 field is restored whole, on any live dies. -/
def State.canRestore (s : State) (f : Field) (v : Saved) (die : Fin 8) : Bool :=
  if f.cls = 0 then (match s.restoreAll (s.savedSet f) with | .noRoom => false | _ => true) else (s.originSaved f v die).isSome

/-- A set whose record could not be read stays saved as a whole: what memory and the host were told stands. -/
def State.unrestored (s t : State) : State :=
  { s with chips := t.chips, dram := t.dram, epochs := t.epochs, access := s.access ++ t.access.filter (fun a => a.gang == processors), host := t.host
           evsel := t.evsel, evcnt := t.evcnt, nextId := t.nextId, fresh := t.fresh }

/-- The first pages that a restore reads may be accessed now: those of the control block and of the record's area. -/
def State.savedReady (s : State) (f : Field) (v : Saved) : State × Bool :=
  match s.saveArea f with
  | (s, .wait) => (s, false)
  | (s, .fault _) => (s, true)
  | (s, .base area) =>
    let pages := v.crews.flatMap (fun k =>
      let cores := 2 ^ v.gang.lw * 2 ^ v.gang.lh
      let lo := k.recordBase area v.gang.nstr cores / 65536
      let hi := (k.recordBase area v.gang.nstr cores + coreRecordBytes v.gang.nstr k.g k.w k.a k.c - 1) / 65536
      (List.range (hi + 1 - lo)).map (fun i => 65536 * (lo + i)))
    s.pagesReady f.asid needRead pages.eraseDups

/-- Restores a saved gang at a die, or a class-0 field and its set as a whole (R188, R189, R480). -/
def State.restore (s : State) (f : Field) (v : Saved) (die : Fin 8) : State :=
  match (if f.cls = 0 then s.savedSet f else [(f, v)]).foldl (fun (r : State × Bool) p => if r.2 then r.1.savedReady p.1 p.2 else r) (s, true) with
  | (s, false) => s
  | (s, true) =>
    if f.cls = 0 then
      match s.restoreAll (s.savedSet f) with
      | .all t => t.letIssue
      | .noRoom => s
      | .unread t => s.unrestored t
    else match s.originSaved f v die with
      | none => s
      | some o => (s.restoreGang f v die o).1.letIssue

/-- GANG_RESTORE: a saved gang returns at the first aligned origin of a live die where it fits, lowest index first. While a class-0 field admits, no
gang of another field is claimed (R506). -/
def execGangRestore (g : GangId) (die : Fin 8) (s : State) : Out :=
  .next (match s.fieldOf g with
    | none => s
    | some f =>
      match f.saved.find? (fun v => v.gang.id == g) with
      | none => s
      | some v => if !s.liveDies.contains die || !f.lowestSaved g || s.admitting.any (fun a => a.block != f.block || a.asid != f.asid) then s else s.restore f v die)

end Sys2Proof.Machine
end

