-- ==== Sys2Proof/Machine/Launch.lean ====
section
/-! DEFINITION. Launch: `flaunch`, intake, the claiming of gangs and the admission of class-0 fields (R153–R160, R187–R190, R502–R507). -/

namespace Sys2Proof.Machine

/-! ## The launch list (R502) -/

/-- Base and entry count of the list, while it is enabled. -/
def State.launchList (s : State) : Option (Nat × Nat) :=
  let w := s.host.llBase
  if w.getLsbD 63 && decide (wordBits w 7 4 ≤ 11) then some (wordBits w 55 12 * 4096, 2 ^ (wordBits w 7 4 + 4)) else none

def listEntry (base k : Nat) : Nat := base + 0x40 + 16 * k

/-- Two dwords at an address. -/
def State.readTwo (s : State) (asid : BitVec 16) (a : Nat) : State × Option (Nat × Nat) :=
  match s.homeWord a asid true 8 with
  | (s, none) => (s, none)
  | (s, some x) =>
    match s.homeWord (a + 8) asid true 8 with
    | (s, none) => (s, none)
    | (s, some y) => (s, some (x, y))

/-- The pages of the launch list may be accessed now. -/
def State.listReady (s : State) : State × Bool :=
  match s.launchList with
  | none => (s, true)
  | some (base, entries) =>
    s.pagesReady s.host.llAsid needBoth ((List.range ((base % 65536 + 0x40 + 16 * entries + 65535) / 65536)).map (fun i => base / 65536 * 65536 + 65536 * i))

/-! ## `flaunch` (R503) -/

/-- Appends a block: 0 appended, 1 full, 2 no list. DEDUCED, unsafe: log 58. -/
def State.append (s : State) (block : Word64) (asid : BitVec 16) : State × Nat :=
  match s.launchList with
  | none => (s, 2)
  | some (base, entries) =>
    match s.readTwo s.host.llAsid base with
    | (s, none) => (s, 2)
    | (s, some (tail, head)) =>
      if entries ≤ (tail + 2 ^ 64 - head) % 2 ^ 64 then (s, 1)
      else
        let e := listEntry base (tail % entries)
        match s.homeSet (e + 8) s.host.llAsid true 8 asid.toNat with
        | (s, false) => (s, 2)
        | (s, true) =>
          match s.homeRmw base s.host.llAsid true 8 (fun t => t + 1) with
          | (s, none) => (s, 2)
          | (s, some _) =>
            match s.homeSet e s.host.llAsid true 8 (block.toNat + 1) with
            | (s, _) => (s, 0)

/-- `flaunch`. -/
def execFlaunch (d a : Reg) (s : State) : Out :=
  .next (s.checked true true [d, a] (fun s =>
    let blk := s.reg a
    if wordBits blk 63 56 ≠ 0 then s.raiseTrap addressCause blk
    else if misaligned blk 128 then s.raiseTrap misalignedCause blk
    else if !s.mayRelease then s.wait .none
    else s.withEntry (fun s =>
      match s.listReady with
      | (s, false) => s.wait .none
      | (s, true) =>
        match (s.releaseAt s.me.who.id.core.die s.me.who.gang 3).append blk s.me.sy.asid with
        | (t, res) => t.startOperation d blk 0 t.me.sy.asid 0 (.done (BitVec.ofNat 64 res)))))

/-! ## The launch block (R153–R157) -/

/-- The 16 dwords of a block; none when any cannot be read. DEDUCED, unsafe: log 56. -/
def State.readBlock (s : State) (block : Word64) (asid : BitVec 16) : State × Option (List Word64) :=
  match s.readDwords asid block.toNat [] 16 with
  | (s, .ok ws) => (s, some ws)
  | (s, .error _) => (s, none)

/-- The field that a block's dwords describe. -/
def fieldOfBlock (block : Word64) (asid : BitVec 16) (ws : List Word64) : Field :=
  let w (i : Nat) : Word64 := ws.getD i 0
  let flags := wordBits (w 0) 63 32
  let shape := w 4
  let sizes := w 5
  { block, asid, cls := BitVec.ofNat 2 flags, cosched := flags.testBit 4, lane0 := flags.testBit 5, prio := BitVec.ofNat 2 (flags / 4)
    entry := w 1, lcb := w 2, args := w 3, fx := wordBits shape 15 0, fy := wordBits shape 31 16, lw := wordBits shape 35 32, lh := wordBits shape 39 36
    nstr := wordBits shape 43 40, roles := (w 6).extractLsb' 32 32, aff := (w 6).extractLsb' 16 8, g := wordBits sizes 15 0, w := wordBits sizes 31 16
    a := wordBits sizes 47 32, c := wordBits sizes 63 48, tvec := w 9, window := true, claimed := false, known := [], go := false, ended := none
    saved := [] }

/-- A must-be-zero bit of R153–R156 is set, or the class is 3. -/
def blockReserved (ws : List Word64) (f : Field) : Bool :=
  let w (i : Nat) : Word64 := ws.getD i 0
  wordBits (w 0) 63 38 != 0 || f.cls == 3 || wordBits (w 4) 63 44 != 0 || wordBits (w 6) 31 24 != 0 ||
    f.roles.toNat / 4 ^ (f.nstr + 1) != 0 || (List.range 6).any (fun i => w (10 + i) != 0)

/-- The first reason that refuses a block (R157, then reason 0x09 of R504). -/
def State.refusal (s : State) (ws : List Word64) (f : Field) : Option Nat :=
  let w (i : Nat) : Word64 := ws.getD i 0
  if wordBits (w 0) 31 0 ≠ 1 then some 0x01
  else if blockReserved ws f then some 0x02
  else if f.fx = 0 ∨ f.fy = 0 then some 0x03
  else if !shapeOk f.lw f.lh then some 0x04
  else if 256 < f.g ∨ 256 < f.w ∨ 512 < f.a ∨ 256 < f.c then some 0x05
  else if f.cosched ∧ f.cls ≠ 0 then some 0x06
  else if !canonical f.entry || misaligned f.entry 4 || !canonical f.lcb || misaligned f.lcb 64 then some 0x07
  else if f.cls = 0 ∧ (if f.cosched then !s.trialFits f else decide (s.capacity f < f.fx * f.fy)) then some 0x08
  else if wordBits (w 6) 15 0 ≠ f.asid.toNat then some 0x09
  else none

/-! ## Intake (R504) -/

/-- A block names a field in the window or one with a resident or saved gang. -/
def State.knownField (s : State) (block : Word64) (asid : BitVec 16) : Bool :=
  s.fields.any (fun f => f.block == block && f.asid == asid) || s.gangs.any (fun g => g.id.block == block && g.id.asid == asid)

/-- A block can be read where it stands: its 128 bytes lie in no peer aperture and are canonical. -/
def blockPlain (block : Word64) : Bool := plainAddress block && plainAddress (block + 127)

/-- Decides one entry. -/
def State.decideEntry (s : State) (block : Word64) (asid : BitVec 16) : State :=
  if s.knownField block asid || !blockPlain block then s.dropEntry
  else
    match s.readBlock block asid with
    | (s, none) => s.dropEntry
    | (s, some ws) =>
      let f := fieldOfBlock block asid ws
      match s.refusal ws f with
      | some reason =>
        match s.refuse block asid reason with
        | (s, true) => s
        | (s, false) => s.dropEntry
      | none => { s with fields := s.fields ++ [f] }

/-- The entry at head, once its valid bit is set: where it stands, its first dword, and the block and ASID it names. -/
def State.headEntry (s : State) (base entries : Nat) : State × Option (Nat × Nat × Word64 × BitVec 16) :=
  match s.homeWord (base + 8) s.host.llAsid true 8 with
  | (s, none) => (s, none)
  | (s, some head) =>
    let e := listEntry base (head % entries)
    match s.readTwo s.host.llAsid e with
    | (s, none) => (s, none)
    | (s, some (first, second)) => (s, if first % 2 = 0 then none else some (e, first, BitVec.ofNat 64 (first - 1), BitVec.ofNat 16 second))

/-- Takes the entry at head: decides it, clears its valid bit and advances head. It waits for the host's translation of the block's page. -/
def State.takeEntryAt (s : State) (base entries : Nat) : State :=
  match s.headEntry base entries with
  | (s, none) => s
  | (s, some (e, first, block, asid)) =>
    match (if s.knownField block asid || !blockPlain block then (s, true) else s.pageReady asid block.toNat needBoth) with
    | (s, false) => s
    | (s, true) =>
      let s := s.decideEntry block asid
      let s := (s.homeSet e s.host.llAsid true 8 (first - 1)).1
      (s.homeRmw (base + 8) s.host.llAsid true 8 (fun h => h + 1)).1

/-- LAUNCH_INTAKE: the valid entry at head is admitted to the window, refused or dropped; then its valid bit is cleared and head advances.
DEDUCED, unsafe: log 57. -/
def execLaunchIntake (s : State) : Out :=
  .next (
    if !s.ddb.ready || decide (16 ≤ (s.fields.filter (fun f => f.window)).length) then s
    else match s.launchList with
      | none => s
      | some (base, entries) =>
        match s.listReady with
        | (s, false) => s
        | (s, true) => s.takeEntryAt base entries)

/-! ## Claims (R505) -/

/-- Ends every gang of a field without a record; its saved gangs are discarded (R501, R505). The completion word says so when the last gang has
gone and its writes are performed. -/
def State.endField (s : State) (block : Word64) (asid : BitVec 16) (reason : Nat) : State :=
  let mine (g : GangId) : Bool := g.block == block && g.asid == asid
  let s := (s.gangs.filter (fun k => mine k.id)).foldl (fun (s : State) k => s.stopGang k.id) s
  let s := s.modifyField block asid (fun f => { f with window := false, claimed := true, saved := [], ended := f.ended.or (some reason) })
  (s.fieldEnded block asid).dropFields

/-- Fields whose gangs a processor may claim, in order: highest priority, then oldest. -/
def claimOrder (fs : List Field) : List Field :=
  [3, 2, 1, 0].flatMap (fun p => fs.filter (fun f => f.prio.toNat == p))

/-- Fetch-add on a field's ticket counter at its home: the ticket; none when it faults. -/
def State.takeTicket (s : State) (f : Field) : State × Option Nat := s.homeRmw (f.block.toNat + 0x40) f.asid true 4 (fun t => t + 1)

/-- The page of a field's block may be accessed now. -/
def State.blockReady (s : State) (f : Field) : State × Bool := s.pageReady f.asid f.block.toNat needBoth

/-- A claim whose fetch-add faults ends the field (R505). -/
def State.claimFaulted (s : State) (f : Field) : State := s.endField f.block f.asid 0x0B

/-- Every ticket of a field is claimed; it leaves the window when no gang of it is saved. A die learns so from its own fetch-add (R505, R507). -/
def State.fullyClaimed (s : State) (f : Field) (knows : List (Fin 8)) : State :=
  (s.modifyField f.block f.asid (fun f => { f with claimed := true, known := f.known ++ knows, window := !f.saved.isEmpty })).dropFields

/-- One claim of a parallel or weak field at an origin where a gang fits. -/
def State.claim (s : State) (f : Field) (die : Fin 8) (o : Nat × Nat) : State :=
  match s.blockReady f with
  | (s, false) => s
  | (s, true) =>
    match s.takeTicket f with
    | (s, none) => s.claimFaulted f
    | (s, some t) =>
      if f.fx * f.fy ≤ t then s.fullyClaimed f [die]
      else
        let s := s.placeGang f t die o
        if t + 1 = f.fx * f.fy then s.fullyClaimed f [] else s

/-- The first saved gang that fits on a die: of the field of highest priority, then the oldest, the lowest index first. -/
def State.savedHere (s : State) (die : Fin 8) : Option (Field × Saved) :=
  (claimOrder s.fields).findSome? (fun f =>
    match f.saved.find? (fun v => f.lowestSaved v.gang.id) with
    | none => none
    | some v => if s.canRestore f v die then some (f, v) else none)

/-- A die may claim a gang of a parallel or weak field: it has not learnt that no ticket is left, and of a parallel field no gang is saved (R190, R505). -/
def Field.claimable (f : Field) (die : Fin 8) : Bool :=
  f.ended.isNone && !f.known.contains die && f.cls != 0 && (f.cls == 2 || f.saved.isEmpty)

/-- GANG_CLAIM: a live die's command processor considers saved gangs, then the highest priority, then the oldest field, and claims one gang where
it fits. While a class-0 field admits, no other field's gang is claimed. -/
def execGangClaim (die : Fin 8) (s : State) : Out :=
  .next (
    if !s.ddb.ready || !s.liveDies.contains die || s.admitting.isSome then s
    else match s.savedHere die with
      | some (f, v) => s.restore f v die
      | none =>
        match (claimOrder (s.fields.filter (fun f => f.claimable die))).findSome? (fun f => (s.originFor f die).map (fun o => (f, o))) with
        | some (f, o) => s.claim f die o
        | none => s)

/-! ## Admission (R506) -/

/-- The last ticket sets go with a release, and every reserved gang enters; while gangs of the field's co-schedule set are saved, none of them
issues (R188, R189). -/
def State.goField (s : State) (f : Field) : State :=
  let s := (s.homeRmw (f.block.toNat + 0x40) f.asid true 8 (fun v => if v / 2 ^ 63 = 1 then v else v + 2 ^ 63)).1
  (s.modifyField f.block f.asid (fun f => { f with go := true, claimed := true, window := !f.saved.isEmpty })).letIssue

/-- The admitting field's next gang is reserved at an origin where it fits. -/
def State.reserve (s : State) (f : Field) (die : Fin 8) (o : Nat × Nat) : State :=
  match s.blockReady f with
  | (s, false) => s
  | (s, true) =>
    match s.takeTicket f with
    | (s, none) => s.claimFaulted f
    | (s, some t) =>
      if f.fx * f.fy ≤ t then (s.goField f).dropFields
      else
        let s := s.placeGang f t die o
        if t + 1 = f.fx * f.fy then s.goField f else s

/-- CONCURRENT_ADMISSION: the admitting field's next gang is reserved on a live die where it fits; no gang issues before the last is. -/
def execConcurrentAdmission (die : Fin 8) (s : State) : Out :=
  .next (
    if !s.ddb.ready || !s.liveDies.contains die then s
    else match s.admitting with
      | none => s
      | some f =>
        match s.originFor f die with
        | none => s
        | some o => s.reserve f die o)

end Sys2Proof.Machine
end

