-- ==== Sys2Proof/Machine/Digest.lean ====
section
/-! DEFINITION. SHA-256 (FIPS 180-4), the digest of R493 and R494. -/

namespace Sys2Proof.Machine

namespace Sha256

/-- The first n primes from k on, with fuel. -/
def primes : Nat → Nat → Nat → List Nat
  | 0, _, _ => []
  | _, _, 0 => []
  | fuel + 1, k, n + 1 =>
    if (List.range k).all (fun d => d < 2 || k % d != 0) then k :: primes fuel (k + 1) n else primes fuel (k + 1) (n + 1)

/-- The largest r below 2^bits, built from its top bit down, whose power e is at most x. -/
def root (e x : Nat) : Nat → Nat → Nat
  | 0, r => r
  | b + 1, r => root e x b (if (r + 2 ^ b) ^ e ≤ x then r + 2 ^ b else r)

/-- The first 32 bits of the fraction of the e-th root of a prime. -/
def fraction (e p : Nat) : Word32 := BitVec.ofNat 32 (root e (p * 2 ^ (32 * e)) 40 0)

/-- The round constants and the starting value. -/
def constants : List Word32 := (primes 400 2 64).map (fraction 3)
def start : List Word32 := (primes 400 2 8).map (fraction 2)

def rotations (x : Word32) (a b c : Nat) : Word32 := x.rotateRight a ^^^ x.rotateRight b ^^^ x.rotateRight c

/-- The 64 schedule words of a block of 16, newest first while they are built. -/
def schedule : Nat → List Word32 → List Word32
  | 0, w => w.reverse
  | n + 1, w =>
    let x (i : Nat) : Word32 := w.getD (i - 1) 0
    let s0 := (x 15).rotateRight 7 ^^^ (x 15).rotateRight 18 ^^^ (x 15) >>> 3
    let s1 := (x 2).rotateRight 17 ^^^ (x 2).rotateRight 19 ^^^ (x 2) >>> 10
    schedule n ((x 16 + s0 + x 7 + s1) :: w)

/-- One round over the eight working words. -/
def round (h : List Word32) (k : Word32 × Word32) : List Word32 :=
  match h with
  | [a, b, c, d, e, f, g, i] =>
    let t1 := i + rotations e 6 11 25 + ((e &&& f) ^^^ (~~~e &&& g)) + k.1 + k.2
    let t2 := rotations a 2 13 22 + ((a &&& b) ^^^ (a &&& c) ^^^ (b &&& c))
    [t1 + t2, a, b, c, d + t1, e, f, g]
  | h => h

/-- A message as blocks of 16 big-endian words, with fuel. -/
def blocks : Nat → List Byte → List (List Word32)
  | 0, _ => []
  | n + 1, m =>
    if m.isEmpty then []
    else (List.range 16).map (fun i => (List.range 4).foldl (fun (w : Word32) j => w <<< 8 ||| (m.getD (4 * i + j) 0).setWidth 32) 0) :: blocks n (m.drop 64)

/-- The message with its padding: a one bit, zeros, and its length in bits. -/
def padded (m : List Byte) : List Byte :=
  m ++ [0x80] ++ List.replicate ((119 - m.length % 64) % 64) 0 ++ (List.range 8).map (fun i => BitVec.ofNat 8 (8 * m.length / 256 ^ (7 - i)))

/-- The digest, its first byte the most significant. -/
def digest (m : List Byte) : Nat :=
  let h := (blocks (m.length / 64 + 2) (padded m)).foldl (fun (h : List Word32) b =>
    List.zipWith (fun (x y : Word32) => x + y) h ((constants.zip (schedule 48 b.reverse)).foldl round h)) start
  h.foldl (fun (n : Nat) w => n * 2 ^ 32 + w.toNat) 0

end Sha256

end Sys2Proof.Machine
end

