-- ==== Sys2Proof/Machine/Interposer.lean ====
section
/-! DEFINITION. The interposer's pairs (R487–R491) and the power gating of local banks and LLC ways (R263, R264). -/

namespace Sys2Proof.Machine

/-! ## Pairs (R487–R491) -/

/-- The registers of R489 exist for destinations 0–29 other than the endpoint itself. -/
def pairExists (i j : Nat) : Bool := decide (i < 30) && decide (j < 30) && i != j

/-- The comb lines of a pair: colour 0 and colour 1 (R487). -/
def combLines (i j : Nat) : Nat × Nat := ((j + 32 - i) % 32, (j + 32 - i) % 32 + 32)

/-- The bits of a pair routing register that hold fields. -/
def prrBits : Word64 := ones 31 30 ||| ones 12 8 ||| ones 1 0

/-- An endpoint that has left reset and was not left out. -/
def State.liveEndpoint (s : State) (e : Nat) : Bool := s.sconce.released.contains e && !s.sconce.leftOut.contains e

/-- A relay that R489 allows. -/
def State.relayOk (s : State) (i j : Nat) (w : Word64) : Bool :=
  let via := prrVia w
  via != i && via != j && s.liveEndpoint via && prrMode (s.pair i via).prr != 3 && prrMode (s.pair via j).prr != 3

/-- Every flit that was sent has been acknowledged. -/
def Pair.settled (p : Pair) : Bool := p.unacked.isEmpty

/-- The register after a write: a via of 30 or 31 names no endpoint, and the field keeps what it held. DESIGN CHOICE, unsafe: log 93. -/
def prrAfter (old w : Word64) : Word64 := if 30 ≤ prrVia w then (w &&& (ones 31 30 ||| ones 1 0)) ||| (old &&& ones 12 8) else w &&& prrBits

/-- The register takes a value, unless it selects a relay that is not allowed. On a change between a direct and the relay path the pair is stopped
until every flit sent on the old path is acknowledged (R491); a direct path with both colours lost acknowledges none, and its flits go again
on the new one. DEDUCED, unsafe: log 64. -/
def State.setPrr (s : State) (i j : Nat) (w : Word64) : State :=
  if prrMode w = 3 ∧ !s.relayOk i j w then s
  else
    let p := s.pair i j
    let changes := (prrMode p.prr == 3) != (prrMode w == 3)
    s.setPair i j { p with prr := prrAfter p.prr w, stopped := (changes != p.stopped) && !p.settled && !p.cutOff }

/-- PRR_WRITE: firmware writes a pair routing register of a live endpoint (R489, R499). -/
def execPrrWrite (i j : Nat) (w : Word64) (s : State) : Out := .next (if pairExists i j && s.liveEndpoint i then s.setPrr i j w else s)

/-- PAIR_MODE_CHANGE: a pair that was stopped for a change of path continues on the new one, a relay or the direct path, which its register
selects (R491). -/
def execPairModeChange (i j : Nat) (relay : Bool) (s : State) : Out :=
  .next (
    let p := s.pair i j
    if p.stopped && (prrMode p.prr == 3) == relay && (p.settled || p.cutOff) then s.setPair i j { p with stopped := false } else s)

/-- A pair after one of its colours is lost: the lost bit is set, and one that ran on both goes on with the other (R490). -/
def Pair.lose (p : Pair) (colour : Bool) : Pair :=
  let w := p.prr ||| (if colour then 0x80000000#64 else 0x40000000#64)
  { p with prr := if prrMode w = 0 then w ||| (if colour then 1 else 2) else w }

/-- COLOUR_LOST: a receiver loses lock. -/
def execColourLost (i j : Nat) (colour : Bool) (s : State) : Out :=
  .next (if pairExists i j then s.setPair i j ((s.pair i j).lose colour) else s)

/-- Flits of a pair may use the colours of a try: on a direct path one that the pair may use, on a relay one of each leg. -/
def State.usable (s : State) (i j : Nat) (f : FlitTry) : Bool :=
  let p := s.pair i j
  if p.onRelay then (s.pair i (prrVia p.prr)).colourOk f.colour && (s.pair (prrVia p.prr) j).colourOk f.second else p.colourOk f.colour

/-- Delivers the flits that arrived early and are now next, with fuel. -/
def Pair.drain : Nat → Pair → Pair
  | 0, p => p
  | n + 1, p =>
    match p.early.find? (fun f => f.1 == p.expected) with
    | some f => Pair.drain n { p with expected := p.expected + 1, delivered := p.delivered ++ [f.2], early := p.early.erase f }
    | none => p

/-- A flit with a good CRC reaches its receiver, is acknowledged, and is delivered in sequence order (R488). -/
def Pair.arrive (p : Pair) (seq : Nat) (f : TxFlit) : Pair :=
  Pair.drain (p.early.length + 1)
    { p with early := p.early ++ [(seq, f.body)], unacked := p.unacked.filter (fun u => u.1 != seq), tries := p.tries.filter (fun e => e.1 != seq) }

/-- The leg and colour on which a flit fails its CRC: the pair's own colour, or that of a leg of its relay. -/
def Pair.failedOn (p : Pair) (f : FlitTry) : Bool × Bool :=
  if p.onRelay && f.onSecond then (true, f.second) else (false, f.colour)

/-- The failures in a row of a flit on a leg and colour, with this one. -/
def Pair.failures (p : Pair) (f : FlitTry) : Nat :=
  let at' := p.failedOn f
  (match p.tries.find? (fun e => e.1 == f.seq && (e.2.1, e.2.2.1) == at') with | some e => e.2.2.2 | none => 0) + 1

/-- A flit fails its CRC: it is tried again, and after 16 tries in a row the colour is lost, of the pair or of the relay's leg (R490, R491). -/
def State.flitFails (s : State) (i j : Nat) (f : FlitTry) : State :=
  let p := s.pair i j
  let n := p.failures f
  let at' := p.failedOn f
  let s := s.setPair i j { p with tries := (f.seq, at'.1, at'.2, if 16 ≤ n then 0 else n) :: p.tries.filter (fun e => e.1 != f.seq) }
  let leg : Nat × Nat := if !p.onRelay then (i, j) else if at'.1 then (prrVia p.prr, j) else (i, prrVia p.prr)
  if 16 ≤ n then s.setPair leg.1 leg.2 ((s.pair leg.1 leg.2).lose at'.2) else s

/-- Some relayed flit waits for a leg, and its relay can carry it. -/
def State.relayWaits (s : State) (i j : Nat) : Bool :=
  s.pairs.any (fun e => prrMode e.2.prr == 3 && !e.2.tx.waiting.isEmpty && s.carries e.1.1 e.1.2 &&
    ((e.1.1 == i && prrVia e.2.prr == j) || (prrVia e.2.prr == i && e.1.2 == j)))

/-- The next flit on a pair's colours may be one that is relayed over it, or one of its own: they take turns while both can go (R491). -/
def State.legTurn (s : State) (i j : Nat) (relayed : Bool) : Bool :=
  let l := s.pair i j
  if relayed then !(l.relayed && !l.tx.waiting.isEmpty && prrMode l.prr != 3 && s.carries i j) else l.relayed || !s.relayWaits i j

/-- A flit may go that has not gone before: while one waits to be sent again, only what stands in its class, and management that is due (R535). -/
def Pair.mayGo (p : Pair) (f : TxFlit) : Bool := p.tries.isEmpty || f.cls == .reply || (f.cls == .management && p.tx.due)

/-- The pair's transmitter sends its next flit (R535): direct, or over the two legs of a relay. -/
def State.transmit (s : State) (i j : Nat) (t : FlitTry) : State :=
  let p := s.pair i j
  let relay := prrMode p.prr = 3
  let via := prrVia p.prr
  let turn := if relay then s.legTurn i via true && s.legTurn via j true else s.legTurn i j false
  if p.stopped || !s.usable i j t || !turn then s
  else match p.tx.send p.mayGo with
    | none => s
    | some (f, tx) =>
      let s := s.setPair i j { p with tx, sent := p.sent + 1, unacked := p.unacked ++ [(p.sent, f)], relayed := if relay then p.relayed else false }
      if relay then
        let s := s.setPair i via { s.pair i via with relayed := true }
        s.setPair via j { s.pair via j with relayed := true }
      else s

/-- INTERPOSER_FLIT: flits come to the pair's transmitter; a flit that it sends, or sends again, reaches the receiver on a colour, or fails its CRC
and is tried again (R488, R490, R535). A sequence number not sent before is that of the flit which the transmitter now chooses. -/
def execInterposerFlit (i j : Nat) (sent : FlitTry) (crcOk : Bool) (offered : List TxFlit) (s : State) : Out :=
  .next (
    if !pairExists i j then s
    else
      let s := s.setPair i j { s.pair i j with tx := (s.pair i j).tx.offer offered }
      let s := if sent.seq = (s.pair i j).sent then s.transmit i j sent else s
      let p := s.pair i j
      match p.unacked.find? (fun u => u.1 == sent.seq) with
      | none => s
      | some u =>
        if !s.usable i j sent then s
        else if crcOk then s.setPair i j (p.arrive sent.seq u.2)
        else s.flitFails i j sent)

/-! ## Power gating (R263, R264) -/

/-- No crew's region on a core covers a bank. -/
def State.bankIsFree (s : State) (c : CoreId) (u : Buf) (bank : Nat) : Bool :=
  (s.crews.filter (fun k => k.core == c)).all (fun k => !k.onBanks [(u, bank)])

/-- LOCAL_BANK_GATE: a bank that no crew's region covers is gated. -/
def execLocalBankGate (c : CoreId) (u : Buf) (bank : Nat) (s : State) : Out :=
  .next (
    let k := s.core c
    if !s.bankIsFree c u bank || k.gated.contains (u, bank) || k.waking.contains (u, bank) then s
    else s.setCore c { k with gated := (u, bank) :: k.gated })

/-- LOCAL_BANK_ENABLE: a gated bank begins its clear. -/
def execLocalBankEnable (c : CoreId) (u : Buf) (bank : Nat) (s : State) : Out :=
  .next (
    let k := s.core c
    if k.gated.contains (u, bank) then
      s.setCore c { k with gated := k.gated.filter (fun b => b != (u, bank)), waking := (u, bank) :: k.waking }
    else s)

/-- LOCAL_BANK_WAKE: the clear of a waking bank completes, and the crews that it kept out enter. -/
def execLocalBankWake (c : CoreId) (u : Buf) (bank : Nat) (s : State) : Out :=
  .next (
    let k := s.core c
    (s.setCore c { k with waking := k.waking.filter (fun b => b != (u, bank)) }).letIssue)

/-- LLC_WAY_GATE: firmware writes a way's dirty lines back, invalidates it and gates it. -/
def execLlcWayGate (chip way : Nat) (s : State) : Out :=
  .next (
    if 16 ≤ way || !s.ddb.chips.contains chip || (s.chip chip).gatedWays.contains way || (s.chip chip).wakingWays.contains way then s
    else
      let s := s.dropLines chip true (fun l => l.way == way)
      s.setChip chip { s.chip chip with gatedWays := way :: (s.chip chip).gatedWays })

/-- LLC_WAY_ENABLE: a gated way returns with every tag invalid and begins its clear. -/
def execLlcWayEnable (chip way : Nat) (s : State) : Out :=
  .next (
    let k := s.chip chip
    if k.gatedWays.contains way then
      s.setChip chip { k with gatedWays := k.gatedWays.filter (fun w => w != way), wakingWays := way :: k.wakingWays }
    else s)

/-- LLC_WAY_CLEARED: a waking way may take allocations again. -/
def execLlcWayCleared (chip way : Nat) (s : State) : Out :=
  .next (
    let k := s.chip chip
    s.setChip chip { k with wakingWays := k.wakingWays.filter (fun w => w != way) })

end Sys2Proof.Machine
end

