-- ==== Sys2Proof/Machine/Fabric.lean ====
section
/-! DEFINITION. The scale-up fabric (R509–R527): flits at a port, replay, retrain, widths, lane health, lasers and the Lamplighter. -/

namespace Sys2Proof.Machine

/-! ## Flits and codewords (R516, R518, R521) -/

/-- One bit of the CRC's shift register. -/
def crcBit (c : Word64) : Word64 := if c.getLsbD 63 then (c <<< (1 : Nat)) ^^^ 0x42F0E1EBA9EA3693#64 else c <<< (1 : Nat)

/-- CRC-64 with the ECMA-182 polynomial, most significant bit first, from 0. PRESUMED, unsafe: log 98. -/
def crc64 (bs : List Byte) : Word64 :=
  bs.foldl (fun c (b : Byte) => (List.range 8).foldl (fun c _ => crcBit c) (c ^^^ BitVec.ofNat 64 (b.toNat * 2 ^ 56))) 0

/-- Bytes 0–247 of a flit of a kind (R516). -/
def flitBytes (h : FlitHead) (kind : Nat) : List Byte :=
  leBytes 2 h.seq.toNat ++ [BitVec.ofNat 8 kind, if h.mc then 1 else 0] ++ leBytes 2 h.dest.toNat ++ leBytes 2 h.src.toNat ++
    (h.payload ++ List.replicate 240 0).take 240

/-- The flit's CRC holds. -/
def flitIntact (h : FlitHead) (kind : Nat) : Bool := crc64 (flitBytes h kind) == h.crc

/-- Width and used lanes of a band's transmitter, as the receiver decodes it (R522). -/
def FabricPort.band (q : FabricPort) (star : Nat) : BitVec 2 × Word32 := Table.get q.peerWidth star (0, 0xFFFFFFFF)

/-- The symbols of a codeword that stand on lanes whose erasure flag is set: symbol s on the (s mod W)-th used lane (R521). -/
def FabricPort.erased (q : FabricPort) (star : Nat) : Nat :=
  let used := (List.range 32).filter (fun i => (q.band star).2.getLsbD i)
  let w := used.length
  (used.mapIdx (fun i n => if (q.lane n).eras then (543 + w - i) / w else 0)).foldl (fun a k => a + k) 0

/-- The codeword that brings the flit is corrected: 15 symbol errors on a copper port (R518), 2e + E ≤ 30 on an optical one (R521). -/
def FabricPort.corrects (q : FabricPort) (p : PortId) (h : FlitHead) : Bool :=
  if isOptical p then decide (2 * h.errors + q.erased h.star.val ≤ 30) else decide (h.errors ≤ 15)

/-- Symbols that the decoder of a codeword puts right. -/
def FabricPort.fixed (q : FabricPort) (p : PortId) (h : FlitHead) : Nat := h.errors + (if isOptical p then q.erased h.star.val else 0)

/-- The port takes what the band brings: it is up, and an optical one is tuned to the band and linked (R518–R520). -/
def FabricPort.takes (q : FabricPort) (p : PortId) (h : FlitHead) : Bool :=
  !q.down && !q.training && (!isOptical p || (q.tuned h.star.val && (match q.partners.find? (fun e => e.1 == h.star.val) with
    | some e => e.2.hears
    | none => true)))

/-- A flit of a kind reaches a port of a live die (R497): whether it is intact, after the codeword is corrected and its CRC checked; none where the port
takes nothing. -/
def State.arrives (s : State) (p : PortId) (h : FlitHead) (kind : Nat) : State × Option Bool :=
  let q := s.port p
  let e := 24 + p.die.val
  if !s.liveEndpoint e || !q.takes p h then (s, none)
  else if q.corrects p h then (s.countEvents e 4 (q.fixed p h), some (flitIntact h kind))
  else (s.countEvents e 5 1, some false)

/-! ## Receiving (R516, R517, R520) -/

/-- The next sequence number expected from a transmitter. -/
def FabricPort.expected (q : FabricPort) (src : Nat) : Nat := Table.get q.rxNext src 0

/-- What a receiver makes of a sequenced flit. -/
inductive Receipt where
  | taken
  | duplicate
  | missing
  deriving DecidableEq, Repr

/-- A sequenced flit at its receiver: taken when it is intact and the next of its transmitter; one that is not intact, or later, leaves a number
missing; an earlier one is a duplicate. -/
def FabricPort.receipt (q : FabricPort) (h : FlitHead) (intact : Bool) : Receipt :=
  let exp := q.expected h.src.toNat
  if !intact then .missing
  else if h.seq.toNat = exp % 65536 then .taken
  else if (h.seq.toNat + 65536 - exp % 65536) % 65536 < 32768 then .missing
  else .duplicate

/-- The flit is addressed to this device, or to a group of which the port's mask holds the bit. -/
def State.forMe (s : State) (p : PortId) (h : FlitHead) : Bool :=
  if h.mc then
    let g := h.dest.toNat
    isOptical p && decide (g < 256) && ((s.port p).mcmemb[Fin.ofNat 4 (g / 64)]).getLsbD (g % 64)
  else h.dest == s.ddb.devId

/-- A flit of the link layer for a transmitter (R517). -/
def linkFlit (dest : Nat) (body : FlitBody) : TxFlit := { cls := .reply, source := 0, dest := .device dest, body }

/-- A sequenced flit of a kind arrives, and whether the device takes it. One that it takes, or has had, is acknowledged; for a missing one the
transmitter is asked once. Flits for others count their number (R520). -/
def State.receiveFlit (s : State) (p : PortId) (h : FlitHead) (kind : Nat) : State × Bool :=
  match s.arrives p h kind with
  | (s, none) => (s, false)
  | (s, some intact) =>
    let q := s.port p
    let src := h.src.toNat
    let exp := q.expected src
    let mine := s.forMe p h
    match q.receipt h intact with
    | .taken =>
      let s := s.setPort p { q with rxNext := Table.put q.rxNext src ((exp + 1) % 65536), asked := q.asked.filter (fun a => a != (src, exp)) }
      (if mine then s.sendFlits p [linkFlit src (.ack h.seq.toNat)] else s, mine)
    | .duplicate => (if mine then s.sendFlits p [linkFlit src (.ack ((exp + 65535) % 65536))] else s, false)
    | .missing =>
      if q.asked.contains (src, exp) then (s, false)
      else ((s.setPort p { q with asked := (src, exp) :: q.asked }).sendFlits p [linkFlit src (.ask exp)], false)

/-! ## Requests of other devices (R511–R514) -/

/-- What a request needs of its page, and its update. A return-free reduction needs w only (R254). DEDUCED, unsafe: log 73. -/
def fabricNeed : FabricOp → Need
  | .load => needRead
  | .store _ | .atomic _ false _ => needWrite
  | .atomic _ true _ | .cas _ _ => needBoth

def fabricUpdate (n : Nat) : FabricOp → List Byte → Option (List Byte)
  | .load, _ => none
  | .store d, _ => some (d.take n ++ List.replicate (n - d.length) 0)
  | .atomic op _ d, old => some (leBytes n (newValue op n (ofLe old) d.toNat))
  | .cas c d, old => if ofLe old = c.toNat % 2 ^ (8 * n) then some (leBytes n d.toNat) else none

/-- Whether a request returns data. -/
def fabricReads : FabricOp → Bool
  | .store _ | .atomic _ false _ => false
  | _ => true

/-- The reply to a request of another device. -/
def Incoming.reply (r : Incoming) (error : Option (Fin 8)) (data : List Byte) : TxFlit :=
  { cls := .reply, source := r.src, dest := .device r.src, body := .reply r.tag error data }

/-- A request is performed at its home in user mode and answered, with the cause of R512 where it is refused; false while it waits. -/
def State.serve (s : State) (r : Incoming) : State × Bool :=
  if !s.ddb.devValid then (s.sendFlits r.port [r.reply (some 0) []], true)
  else match s.exported r.o (fabricNeed r.op) r.bytes (fabricUpdate r.bytes r.op) with
    | (s, some (.ok old)) => (s.sendFlits r.port [r.reply none (if fabricReads r.op then old else [])], true)
    | (s, some (.error c)) => (s.sendFlits r.port [r.reply (some (Fin.ofNat 8 c)) []], true)
    | (s, none) => (s, false)

/-- The waiting requests are tried in order of arrival; one that waits holds back those of its sender (R515). -/
def State.serveIncoming (s : State) : State :=
  let r := s.host.incoming.foldl (fun (acc : State × List Incoming) r =>
    if acc.2.any (fun e => e.src == r.src) then (acc.1, acc.2 ++ [r])
    else match acc.1.serve r with
      | (s, true) => (s, acc.2)
      | (s, false) => (s, acc.2 ++ [r])) (s, [])
  { r.1 with host := { r.1.host with incoming := r.2 } }

/-- REQUEST_FLIT: a request to this device's export window is performed at its home in user mode, and answered (R511, R514, R517). -/
def execRequestFlit (p : PortId) (h : FlitHead) (o bytes : Nat) (op : FabricOp) (s : State) : Out :=
  .next (
    match s.receiveFlit p h 1 with
    | (s, false) => s
    | (s, true) =>
      ({ s with host := { s.host with incoming := s.host.incoming ++ [⟨p, h.src.toNat, h.seq.toNat, o, bytes, op⟩] } } : State).serveIncoming)

/-! ## Replies (R512, R524) -/

/-- The reply to an access, or to a request of an engine, that waits for a peer. A multicast store waits for every member's. -/
def State.peerReply (s : State) (a : Access) (error : Option (Fin 8)) (data : List Byte) : State :=
  match error with
  | some c => (s.peerError c.val (peerDevice a.va) (peerOffset a.va)).setStatus a.n (.faulted pageFault)
  | none =>
    if a.kind == .operation then
      { s with access := s.access.map (fun b => if b.n = a.n then { b with line := some (data, true, true) } else b) }
    else if a.kind == .store && decide (1 < a.cmp.toNat) then
      { s with access := s.access.map (fun b => if b.n = a.n then { b with cmp := b.cmp - 1 } else b) }
    else
      let s := if Pol.acquire a.pol then s.acquireAt a.strand.core a.gang a.asid (Pol.scope a.pol) else s
      s.gotValue a (BitVec.ofNat 64 (ofLe data)) none

/-- The access with a number that waits for a peer. -/
def State.atPeer (s : State) (n : Nat) : Option Access := s.access.find? (fun a => a.n == n && a.status == .peer && a.line.isNone)

/-- REPLY_FLIT: a reply completes its request; one that arrives after the timeout is discarded (R512). -/
def execReplyFlit (p : PortId) (h : FlitHead) (n : Nat) (error : Option (Fin 8)) (data : List Byte) (s : State) : Out :=
  .next (match s.receiveFlit p h 2 with
    | (s, false) => s
    | (s, true) => match s.atPeer n with
      | some a => s.peerReply a error data
      | none => s)

/-- PEER_TIMEOUT: a request unanswered within FTIMEOUT receives an error reply (R512). -/
def execPeerTimeout (n : Nat) (s : State) : Out :=
  .next (match s.atPeer n with
    | some a => s.peerReply a (some 1) []
    | none => s)

/-! ## Acks and replay (R517, R522) -/

/-- An ack up to a number covers another. -/
def ackCovers (upto n : Nat) : Bool := decide ((upto + 65536 - n) % 65536 < 32768)

/-- A device has acknowledged every flit up to a number: they leave the replay buffer for it, and so do markers with an ack beyond them. -/
def FabricPort.acked (q : FabricPort) (src upto : Nat) : FabricPort :=
  let without (l : List Nat) : List Nat := l.filter (fun d => d != src)
  { q with
    replay := (q.replay.map (fun e => if ackCovers upto e.1 then (e.1, e.2.1, without e.2.2) else e)).filter (fun e => !e.2.2.isEmpty)
    markers := (q.markers.map (fun m => if ackCovers upto m.seq then { m with waits := without m.waits } else m)).filter (fun m => !m.waits.isEmpty) }

/-- ACK_FLIT: an ack frees every flit up to its number for its sender (R517). -/
def execAckFlit (p : PortId) (h : FlitHead) (upto : BitVec 16) (s : State) : Out :=
  .next (match s.arrives p h 3 with
    | (s, some true) => (s.setPort p ((s.port p).acked h.src.toNat upto.toNat)).pump p
    | (s, _) => s)

/-- The flit sends one of the buffer, or a marker, again. -/
def resends (f : TxFlit) : Bool := match f.body with | .replay _ | .marker _ _ => true | _ => false

/-- The markers that are still awaited and the unacknowledged flits are to be sent again, in order. -/
def FabricPort.resent (q : FabricPort) : FabricPort :=
  let fs := q.markers.map (fun m => linkFlit 0 (.marker m.wc m.mask)) ++ q.replay.map (fun e => linkFlit 0 (.replay e.1))
  { q with tx := { q.tx with waiting := fs ++ q.tx.waiting.filter (fun f => !resends f) } }

/-- The transmitter sends its unacknowledged flits again (R517), after the markers that an uncorrectable codeword may have cost (R522). -/
def State.resend (s : State) (p : PortId) : State := (s.setPort p (s.port p).resent).pump p

/-- REPLAY_REQUEST (R517): it comes as a flit of the link layer. -/
def execReplayRequest (p : PortId) (h : FlitHead) (_from' : BitVec 16) (s : State) : Out :=
  .next (match s.arrives p h 3 with
    | (s, some true) => s.resend p
    | (s, _) => s)

/-- MANAGEMENT_FLIT: received in sequence; it asks nothing of the strands. It may report what lies at the other end (R510, R519). DESIGN CHOICE,
unsafe: log 69. -/
def execManagementFlit (p : PortId) (h : FlitHead) (link : Option FabricLink) (s : State) : Out :=
  .next (match s.receiveFlit p h 5, link with
    | (s, true), some l =>
      let q := s.port p
      s.setPort p { q with partners := Table.put q.partners (if isOptical p then h.star.val else 0) l }
    | (s, _), _ => s)

/-- IDLE_FLIT: discarded. -/
def execIdleFlit (_p : PortId) (s : State) : Out := .next s

/-- UNKNOWN_KIND_FLIT: dropped and counted (R516). -/
def execUnknownKindFlit (p : PortId) (kind : Byte) (s : State) : Out :=
  .next (
    let q := s.port p
    if kind.toNat ≤ 5 || !s.liveEndpoint (24 + p.die.val) || q.down || q.training then s else s.setPort p { q with dropped := q.dropped + 1 })

/-! ## Copper ports (R518) -/

/-- COPPER_RETRAIN: a lane of a copper port loses lock and the port retrains. -/
def execCopperRetrain (p : PortId) (_lane : Fin 16) (s : State) : Out :=
  .next (
    let q := s.port p
    if s.liveEndpoint (24 + p.die.val) && !isOptical p && !q.down then s.setPort p { q with training := true } else s)

/-- RETRAIN_COMPLETE: the port resumes with replay, or is down, which raises vector 3 (R518, R528). -/
def execRetrainComplete (p : PortId) (ok : Bool) (s : State) : Out :=
  .next (
    let q := s.port p
    if !q.training then s
    else if ok then (s.setPort p { q with training := false }).resend p
    else (s.setPort p { q with training := false, down := true }).raise 3)

/-! ## Widths (R519, R521, R522) -/

/-- Lanes of a width code. -/
def widthOf (wc : BitVec 2) : Nat := match wc with | 0#2 => 32 | 1#2 => 24 | 2#2 => 16 | _ => 0

/-- The number of bits set. -/
def laneCount (m : Word32) : Nat := ((List.range 32).filter (fun i => m.getLsbD i)).length

def State.lamp (s : State) (d : Fin 4) : Lamplighter := Table.get s.lamps d .reset

/-- The port is an optical one of a live die whose Lamplighter runs (R522, R525, R527). -/
def State.lampPort (s : State) (p : PortId) : Bool := isOptical p && s.liveEndpoint (24 + p.die.val) && (s.lamp p.die).running

/-- OPWIDTH_WRITE: the running Lamplighter posts a request; a mask that does not have exactly W bits, or width code 3, is ignored. -/
def execOpwidthWrite (p : PortId) (w : Word64) (s : State) : Out :=
  .next (
    let q := s.port p
    let wc : BitVec 2 := w.extractLsb' 56 2
    let mask : Word32 := w.setWidth 32
    if !s.lampPort p || q.req || !w.getLsbD 63 || wc == 3 || laneCount mask != widthOf wc then s
    else s.setPort p { q with req := true, wc, mask })

/-- The marker goes out at the old width, is awaited from every link partner, and the new width takes over. -/
def FabricPort.widen (q : FabricPort) (p : PortId) : FabricPort :=
  let waits := (q.links p).map (fun l => l.device)
  let m : Marker := { wc := q.wc, mask := q.mask, oldWc := q.cur, oldMask := q.inUse, seq := q.txSeq, waits }
  { q with line := q.line ++ [⟨0, q.cur, q.inUse, linkFlit 0 (.marker q.wc q.mask)⟩], fload := q.fload + 1
           markers := if waits.isEmpty then q.markers else q.markers ++ [m], req := false, cur := q.wc, inUse := q.mask }

/-- WIDTH_CHANGE: after the codeword in progress, and after a replay that runs (R536), the marker is sent at the old width, the new width takes over and
req clears. -/
def execWidthChange (p : PortId) (s : State) : Out :=
  .next (
    let q := s.port p
    let e := 24 + p.die.val
    if !s.liveEndpoint e || !q.req || q.replaying || !q.up p then s
    else (((s.setPort p (q.widen p)).countEvents e 2 1).countEvents e 6 1).pump p)

/-- WIDTH_MARKER: a receiver tuned to the band decodes the marker and switches its decoder. -/
def execWidthMarker (p : PortId) (h : FlitHead) (wc : BitVec 2) (mask : Word32) (s : State) : Out :=
  .next (match s.arrives p h 4 with
    | (s, some true) =>
      let q := s.port p
      if isOptical p then s.setPort p { q with peerWidth := Table.put q.peerWidth h.star.val (wc, mask) } else s
    | (s, _) => s)

/-! ## Lane health and lasers (R523, R525, R526) -/

def State.setLane (s : State) (p : PortId) (i : Nat) (f : LaneHealth → LaneHealth) : State :=
  let q := s.port p
  s.setPort p { q with lanes := Table.put q.lanes i (f (q.lane i)) }

/-- How far symbol errors have risen since a lane was last read: a free value. -/
def readingRise (r : BitVec 36) : Nat := (r.extractLsb' 0 16).toNat

/-- What the monitors of a lane read then: power and temperature are free values, and the symbol errors have risen by one, up to 0xFFFF. -/
def LaneHealth.measured (h : LaneHealth) (r : BitVec 36) : LaneHealth :=
  { h with serr := BitVec.ofNat 16 (min 65535 (h.serr.toNat + readingRise r)), rxpwr := r.extractLsb' 16 12, temp := r.extractLsb' 28 8 }

/-- The cases in which hardware sets the erasure flag: the lock fell to 0, the power fell below RXMIN, or the symbol errors rose by 4,096. -/
def LaneHealth.failing (h : LaneHealth) (rxmin : BitVec 12) (r : BitVec 36) : Bool :=
  h.fell || (rxmin.sle h.rxpwr && (h.measured r).rxpwr.slt rxmin) || decide (4096 ≤ readingRise r)

/-- A lane's event, with fresh readings of its monitors. -/
def State.laneEvent (s : State) (p : PortId) (i : Nat) (f : LaneHealth → BitVec 36 → LaneHealth) : State :=
  ({ s with fresh := s.fresh + 1 } : State).setLane p i (fun h => f h (Config.laneReading s.fresh))

/-- ERASURE_SET: hardware reads the monitors of a lane of the mask and sets its erasure flag in the cases of R523. -/
def execErasureSet (p : PortId) (lane : Fin 32) (s : State) : Out :=
  .next (
    let q := s.port p
    if isOptical p && s.liveEndpoint (24 + p.die.val) && q.inUse.getLsbD lane.val then
      s.laneEvent p lane.val (fun h r => { h.measured r with eras := h.eras || h.failing q.rxmin r, fell := false })
    else s)

/-- RECEIVE_LOCK_ACQUIRED: the receive lock of a lane changes. -/
def execReceiveLockAcquired (p : PortId) (lane : Fin 32) (lock : BitVec 2) (s : State) : Out :=
  .next (
    if isOptical p && s.liveEndpoint (24 + p.die.val) then
      s.laneEvent p lane.val (fun h r => { h.measured r with lock, fell := lock == 0 && (h.fell || h.lock != 0) })
    else s)

/-- The code that a LASST word gives a lane. -/
def laserCode (w : Word64) (i : Nat) : BitVec 2 := w.extractLsb' (2 * i) 2

/-- A bias under the cap of LASCLAMP (R526). -/
def capped (clamp b : BitVec 12) : BitVec 12 := if clamp.ult b then clamp else b

/-- A lane's laser takes a state: its bias latch becomes a free value under the cap (R523, R526). -/
def State.setLaser (s : State) (p : PortId) (i : Nat) (code : BitVec 2) : State :=
  let clamp := (s.port p).lasclamp
  ({ s with fresh := s.fresh + 1 } : State).setLane p i (fun h => { h with las := code, bias := capped clamp (Config.laserBias s.fresh) })

/-- A lane's part of a LASST write: it is on its way nowhere but where the write sends it. One that leaves OFF for STANDBY is on its way until it
reaches it. DEDUCED, unsafe: log 67. -/
def State.laserWrite (s : State) (p : PortId) (w : Word64) (i : Nat) : State :=
  let q := s.port p
  let code := laserCode w i
  let waking := q.waking.filter (fun k => k != i)
  if code = 3 then s
  else if code = 1 ∧ (q.lane i).las = 0 then s.setPort p { q with waking := i :: waking }
  else (s.setPort p { q with waking }).setLaser p i code

/-- LASST_WRITE: the Lamplighter sets laser states; code 3 changes nothing, and a write that would set a used lane OFF or STANDBY is ignored
whole. -/
def execLasstWrite (p : PortId) (w : Word64) (s : State) : Out :=
  .next (
    let q := s.port p
    let bad := (List.range 32).any (fun i => q.inUse.getLsbD i && (laserCode w i == 0 || laserCode w i == 1))
    if !s.lampPort p || bad then s else ((List.range 32).foldl (fun (s : State) i => s.laserWrite p w i) s).pump p)

/-- A flit waits at a port, to be sent or to be sent again. -/
def State.flitWaits (s : State) (p : PortId) : Bool := !(s.port p).tx.waiting.isEmpty

/-- LANE_WAKE: a used STANDBY lane with a waiting flit moves to ACTIVE, without firmware. -/
def execLaneWake (p : PortId) (lane : Fin 32) (s : State) : Out :=
  .next (
    let q := s.port p
    if isOptical p && s.liveEndpoint (24 + p.die.val) && q.inUse.getLsbD lane.val && (q.lane lane.val).las == 1 && s.flitWaits p then
      (s.setLaser p lane.val 2).pump p
    else s)

/-- STANDBY_REACHED: a lane that was OFF has reached STANDBY. -/
def execStandbyReached (p : PortId) (lane : Fin 32) (s : State) : Out :=
  .next (
    let q := s.port p
    if q.waking.contains lane.val then (s.setPort p { q with waking := q.waking.filter (fun i => i != lane.val) }).setLaser p lane.val 1 else s)

/-- LASCLAMP_WRITE: the Sconce writes the bias cap at boot, which caps every bias latch; every other write is ignored (R526). -/
def execLasclampWrite (p : PortId) (w : Word64) (sconce : Bool) (s : State) : Out :=
  .next (
    let q := s.port p
    let clamp : BitVec 12 := w.setWidth 12
    if isOptical p && s.liveEndpoint (24 + p.die.val) && sconce && !q.clamped && !s.ddb.ready then
      s.setPort p { q with lasclamp := clamp, clamped := true, lanes := q.lanes.map (fun e => (e.1, { e.2 with bias := capped clamp e.2.bias })) }
    else s)

/-! ## The Lamplighter (R527) -/

def State.setLamp (s : State) (d : Fin 4) (l : Lamplighter) : State := { s with lamps := Table.put s.lamps d l }

/-- LLKICK. -/
def execLlkick (d : Fin 4) (s : State) : Out :=
  .next (if (s.lamp d).running then s.setLamp d { s.lamp d with kicked := true } else s)

/-- LAMPLIGHTER_WATCHDOG: 10 ms pass; without a kick the microcontroller is reset, which raises vector 3. -/
def execLamplighterWatchdog (d : Fin 4) (s : State) : Out :=
  .next (
    let l := s.lamp d
    if !l.running || !s.liveEndpoint (24 + d.val) then s
    else if l.kicked then s.setLamp d { l with kicked := false }
    else (s.setLamp d { l with running := false, resets := l.resets + 1 }).raise 3)

/-- LAMPLIGHTER_RESTART: the microcontroller runs again. -/
def execLamplighterRestart (d : Fin 4) (s : State) : Out :=
  .next (if (s.lamp d).running || !s.liveEndpoint (24 + d.val) then s else s.setLamp d { s.lamp d with running := true, kicked := true })

end Sys2Proof.Machine
end

