-- ==== Sys2Proof/Machine/Boot.lean ====
section
/-! DEFINITION. Boot, measurement, the mailbox and the device description block (R492–R500). -/

namespace Sys2Proof.Machine

/-! ## Boot (R492, R493) -/

def hostDieEndpoint : Nat := 28
def sconceEndpoint : Nat := 29

/-- An image passes with the public key and signature that come with it (R493). -/
def imagePasses (image signature : List Byte) : Bool := Config.signatureOk (Sha256.digest image) signature

/-- The image of an endpoint in the flash, when it passes. -/
def goodImage (flash : List FlashImage) (e : Nat) : Option (List Byte) :=
  match flash.find? (fun f => f.endpoint == e) with
  | some f => if imagePasses f.image f.signature then some f.image else none
  | none => none

/-- An endpoint leaves reset with an image, which the Sconce measures in register e + 1 (R494). -/
def Sconce.release (c : Sconce) (e : Nat) (image : List Byte) : Sconce :=
  { c with measured := Table.put c.measured (e + 1) (Sha256.digest image), released := c.released ++ [e], held := c.held.filter (fun k => k != e) }

/-- The Lamplighter of a released fabric die runs. DEDUCED, unsafe: log 66. -/
def State.startLamps (s : State) (es : List Nat) : State :=
  (List.finRange 4).foldl (fun (s : State) d =>
    if es.contains (24 + d.val) then s.setLamp d { s.lamp d with running := true, kicked := true } else s) s

/-- What a reset leaves of every analog array (R386). -/
def State.resetArrays (s : State) : State := s.mapCores (fun c => { c with arrays := c.arrays.map Array4.afterReset })

/-- Stage 3: each of the other dies whose image passes is measured and released, and each of the others held. -/
def Sconce.releaseAll (c : Sconce) (flash : List FlashImage) : Sconce :=
  let c := (List.range 28).foldl (fun (c : Sconce) e => match goodImage flash e with | some b => c.release e b | none => c) c
  { c with held := (List.range 28).filter (fun e => (goodImage flash e).isNone), stage := 4 }

/-- SCONCE_BOOT: stages 1 to 4, with what the boot flash holds. A die whose image does not verify is held; a failing Sconce or host die image
leaves only the recovery function (R493). -/
def execSconceBoot (flash : List FlashImage) (s : State) : Out :=
  .next (
    if s.sconce.stage ≠ 0 then s
    else
      let s := s.resetArrays
      let c : Sconce := { s.sconce with boots := s.sconce.boots + 1, measured := Table.put s.sconce.measured 32 Config.romAndFuses, stage := 1 }
      match goodImage flash sconceEndpoint, goodImage flash hostDieEndpoint with
      | none, _ => { s with sconce := c }
      | some own, none => { s with sconce := c.release sconceEndpoint own }
      | some own, some host =>
        ({ s with sconce := ((c.release sconceEndpoint own).release hostDieEndpoint host).releaseAll flash } : State).startLamps
          ((List.range 28).filter (fun e => (goodImage flash e).isSome)))

/-! ## The layout (R497, R498) -/

/-- Pairs of live endpoints whose register shows a mode that satisfies p. -/
def State.pairsWith (s : State) (p : Nat → Bool) : Nat := (s.pairs.filter (fun e => p (prrMode e.2.prr))).length

/-- A dword of the device description block (R498). -/
def State.ddbWord (s : State) (off : Nat) : Word64 :=
  let d := s.ddb
  let mask (l : List Nat) : Nat := l.foldl (fun m e => m + 2 ^ e) 0
  let n := d.chips.length
  let v : Nat := match off with
    | 0x000 => (if d.ready then 2 ^ 31 else 0) + 1 + 0x100 * 2 ^ 32
    | 0x008 => d.dies.length * 256 + mask d.dies
    | 0x010 => if n = 0 then 0 else s.span * 2 ^ 48 + s.shareSlots * 2 ^ 32 + n * 2 ^ 16 + mask d.chips
    | 0x018 => mask d.fabrics
    | 0x020 => 0x0000000C00000000
    | 0x028 => n * 0x0000000C00000000
    | 0x030 => n * 67108864
    | 0x038 => n * 256
    | 0x040 => d.relay * 2 ^ 32 + d.half
    | 0x048 => d.boots.toNat
    | 0x050 => (if d.devValid then 65536 else 0) + d.devId.toNat
    | 0x058 => Config.reservedFrames % 2 ^ 24 * 2 ^ 40 + framesPerChip % 2 ^ 24
    | _ => 0
  BitVec.ofNat 64 v

/-- The bytes of the block as they are measured: ready is set after that (R492, R494). -/
def State.ddbBytes (s : State) : List Byte :=
  let s := { s with ddb := { s.ddb with ready := false } }
  (List.range 32).flatMap (fun i => leBytes 8 (s.ddbWord (8 * i)).toNat)

/-- DDB_PUBLISH: stage 5. `untrained` names the dies whose adapter failed training as a whole. With no held die, the layout is computed from
the live dies and measured in register 31, and ready is set; a package without compute dies or chiplets publishes the block with ready = 0 and
stays in recovery (R497). -/
def execDdbPublish (untrained : List Nat) (s : State) : Out :=
  .next (
    let c := s.sconce
    if c.stage ≠ 4 ∨ c.held ≠ [] ∨ untrained.contains hostDieEndpoint ∨ untrained.contains sconceEndpoint then s
    else
      let out := c.leftOut ++ untrained.filter (fun e => decide (e < 28) && !c.leftOut.contains e)
      let live (e : Nat) : Bool := c.released.contains e && !out.contains e
      let dies := (List.range 8).filter live
      let chips := (List.range 16).filter (fun m => live (8 + m))
      let fabrics := (List.range 4).filter (fun f => live (24 + f))
      let measured := untrained.foldl (fun t e => Table.put t (e + 1) 0) c.measured
      let ready := !dies.isEmpty && !chips.isEmpty
      let s := { s with ddb := { s.ddb with ready, dies, chips, fabrics, half := s.pairsWith (fun m => m == 1 || m == 2)
                                            relay := s.pairsWith (fun m => m == 3), boots := c.boots } }
      { s with sconce := { c with leftOut := out, stage := if ready then 5 else 4, measured := Table.put measured 31 (Sha256.digest s.ddbBytes) } })

/-! ## SPDM (R494) -/

/-- The Sconce answers over the host link once its own image and the host die's have passed: without them only the recovery function is there, which
has no SPDM (R492, R493). -/
def State.spdm (s : State) (r : Spdm) : State :=
  if s.sconce.released.contains sconceEndpoint && s.sconce.released.contains hostDieEndpoint then { s with sconce := { s.sconce with reply := some r } } else s

/-- GET_VERSION. -/
def execGetVersion (s : State) : Out := .next (s.spdm .version)
/-- GET_CAPABILITIES. -/
def execGetCapabilities (s : State) : Out := .next (s.spdm .capabilities)
/-- NEGOTIATE_ALGORITHMS: RSASSA-3072 and SHA-256. -/
def execNegotiateAlgorithms (s : State) : Out := .next (s.spdm .algorithms)
/-- GET_DIGESTS. -/
def execGetDigests (s : State) : Out := .next (s.spdm (.digests Config.certificateDigest))
/-- GET_CERTIFICATE: the chain of slot 0. -/
def execGetCertificate (s : State) : Out := .next (s.spdm (.certificate Config.certificateDigest))
/-- CHALLENGE. -/
def execChallenge (nonce : Nat) (s : State) : Out := .next (s.spdm (.challengeAuth (Config.spdmSignature nonce)))
/-- GET_MEASUREMENTS: indices 1 to 32 are the registers. DEDUCED, unsafe: log 65. -/
def execGetMeasurements (i : Nat) (s : State) : Out :=
  .next (s.spdm (if 1 ≤ i ∧ i ≤ 32 then .measurement i (Table.get s.sconce.measured i 0) else .unsupported))
/-- Any other request: ERROR with UnsupportedRequest. -/
def execUnsupportedRequest (_code : Byte) (s : State) : Out := .next (s.spdm .unsupported)

/-! ## The mailbox (R493, R495, R500) -/

/-- The command that runs: its operation and its operand. -/
def Sconce.op (c : Sconce) : Nat := bitsOf c.command.toNat 7 0
def Sconce.operand (c : Sconce) : Nat := bitsOf c.command.toNat 31 8

/-- The command runs: the Sconce is up and the status reads 0. -/
def Sconce.running (c : Sconce) (op : Nat) : Bool := c.stage != 0 && c.status == 0 && c.op == op

/-- A command of an operation ends: 1 for success, 2 for failure. -/
def State.mailbox (s : State) (op : Nat) (ok : Bool) (eff : Sconce → Sconce) : State :=
  if !s.sconce.running op then s
  else if ok then { s with sconce := { eff s.sconce with status := 1 } }
  else { s with sconce := { s.sconce with status := 2 } }

/-- The bytes of the buffer that a chunk may fill, behind its length. -/
def chunkSpace : Nat := 0xF00 - 4

/-- The chunk in the buffer: its length in four bytes, then its data. DESIGN CHOICE, unsafe: log 113. -/
def Sconce.chunkLength (c : Sconce) : Nat := ofLe (c.buffer.bytes 0 4)
def Sconce.chunk (c : Sconce) : List Byte := c.buffer.bytes 4 c.chunkLength

/-- IMAGE_CHUNK: appends to the host-supplied image of a held die. -/
def execImageChunk (s : State) : Out :=
  .next (
    let c := s.sconce
    let e := c.operand
    s.mailbox 1 (c.held.contains e && decide (c.chunkLength ≤ chunkSpace)) (fun c => { c with images := Table.put c.images e (Table.get c.images e [] ++ c.chunk) }))

/-- A host-supplied image as its chunks brought it: the image, and the public key and signature that come with it. -/
def Sconce.supplied (c : Sconce) (e : Nat) : List Byte × List Byte :=
  let b := Table.get c.images e []
  (b.take (Config.imageLength b), b.drop (Config.imageLength b))

/-- IMAGE_DONE: a host-supplied image that verifies is measured and its die released, for the current boot only. DEDUCED, unsafe: log 65. -/
def execImageDone (s : State) : Out :=
  .next (
    let c := s.sconce
    let e := c.operand
    let ok := c.running 2 && c.held.contains e && imagePasses (c.supplied e).1 (c.supplied e).2
    let s := s.mailbox 2 ok (fun c => c.release e (c.supplied e).1)
    if ok then s.startLamps [e] else s)

/-- LEAVE_OUT: a held die takes no part in the device; its measurement register is zero. -/
def execLeaveOut (s : State) : Out :=
  .next (
    let e := s.sconce.operand
    s.mailbox 3 (s.sconce.held.contains e) (fun c =>
      { c with held := c.held.filter (fun k => k != e), leftOut := c.leftOut ++ [e], measured := Table.put c.measured (e + 1) 0 }))

/-- KEYSLOT: the slot in [13:8] is turned on with a fresh key where [14] is set, or off, on every live controller (R495). -/
def execKeyslot (s : State) : Out :=
  .next (s.mailbox 4 (decide (4 ≤ s.sconce.stage)) (fun c =>
    { c with keys := Table.put c.keys (c.operand % 64) (if c.operand.testBit 6 then c.nextKey else 0), nextKey := c.nextKey + 1 }))

/-- A write of the command dword starts the command; one that names no operation fails at once, and a write while a command runs changes nothing.
DESIGN CHOICE, unsafe: log 113. -/
def Sconce.start (c : Sconce) (w : Word32) : Sconce :=
  let op := bitsOf w.toNat 7 0
  if c.stage = 0 ∨ c.status = 0 then c else { c with command := w, status := if 1 ≤ op ∧ op ≤ 4 then 0 else 2 }

/-- A write to the mailbox's block, at an offset that is a multiple of 8: the command dword, or the buffer. -/
def Sconce.write (c : Sconce) (off : Nat) (w : Word64) : Sconce :=
  if off = 0 then c.start (w.setWidth 32)
  else if 0x100 ≤ off ∧ off < 0x1000 ∧ c.status ≠ 0 then { c with buffer := c.buffer.writeBytes (off - 0x100) (leBytes 8 w.toNat) }
  else c

/-- A dword of the mailbox's block. -/
def Sconce.read (c : Sconce) (off : Nat) : Word64 :=
  if off = 0 then BitVec.ofNat 64 (c.command.toNat + c.status * 2 ^ 32)
  else if 0x100 ≤ off ∧ off < 0x1000 then BitVec.ofNat 64 (ofLe (c.buffer.bytes (off - 0x100) 8))
  else 0

end Sys2Proof.Machine
end

