-- ==== Sys2Proof/Machine/HostOps.lean ====
section
/-! DEFINITION. The host's commands and the host link: the command ring (R477, R501), the broadcast block (R499), ATS and PRI (R529, R530), the
bias table (R531, R532), power (R534). -/

namespace Sys2Proof.Machine

/-! ## The command ring (R501) -/

/-- The device executes entries one at a time, once it is a device and the ring has a size that R501 lists. -/
def State.ringOpen (s : State) : Bool :=
  s.ddb.ready && s.host.draining.isEmpty && s.host.ending.isNone && decide (4 ≤ s.host.hcrSize.toNat) && decide (s.host.hcrSize.toNat ≤ 16)

/-- The entry at HCRHEAD, while the host has placed one there: op, arg0, arg1 and arg2. Both indices count modulo the entries. DESIGN CHOICE, unsafe:
log 113. -/
def State.ringHead (s : State) : Option (Nat × Word64 × Word64 × Word64) :=
  let h := s.host
  let entries := 2 ^ h.hcrSize.toNat
  let a := h.hcrBase.toNat + 32 * (h.hcrHead.toNat % entries)
  let arg (i : Nat) : Word64 := BitVec.ofNat 64 (ofLe (h.mem.bytes (a + 8 * i) 8))
  if s.ringOpen && h.hcrHead.toNat % entries != h.hcrTail.toNat % entries then some (ofLe (h.mem.bytes a 1), arg 1, arg 2, arg 3) else none

/-- The entry at the head is executed where it is of the event's kind. -/
def State.ring (s : State) (op : Nat → Bool) (eff : Word64 → Word64 → Word64 → State → State) : State :=
  match s.ringHead with
  | some (o, a, b, c) => if op o then eff a b c s else s
  | none => s

/-- The gangs a pre-emption request names: one gang, or every gang of a class-0 field and its co-schedule set (R188, R189, R477). -/
def State.requested (s : State) (f : Field) (index : Nat) : List Gang :=
  s.gangs.filter (fun k => !k.ending &&
    (if f.cls = 0 then (s.setOf f).any (fun g => g.go && g.block == k.id.block && g.asid == k.id.asid)
     else k.id.block == f.block && k.id.asid == f.asid && k.id.index == index))

/-- Whether some field of the request has no save area (R477); none while a read of a control block waits for the host. A control block
that cannot be read refuses no request: its save faults (R482). DEDUCED, unsafe: log 62. -/
def State.noSaveArea (s : State) (f : Field) : State × Option Bool :=
  (if f.cls = 0 then s.setOf f else [f]).foldl (fun (r : State × Option Bool) g =>
    match r.1.saveArea g with
    | (s, .wait) => (s, none)
    | (s, a) => (s, r.2.map (fun b => b || a == .base 0))) (s, some false)

/-- The drain of a gang begins: issue stops (R478 step 1), and the copies that stand at a chunk boundary stop there (R360). -/
def State.startDrain (s : State) (g : GangId) : State :=
  let stop (k : CopyCmd) : CopyCmd := if k.gang == g && k.kind != 2 && k.state == .running && !k.begun then { k with state := .queued } else k
  ((s.mapCores (fun c => { c with copies := c.copies.map stop })).modifyGang g (fun k => { k with draining := true })).modifyAll (fun x => x.who.gang == g) (fun x => x.withSched (fun k => { k with hold := true }))

/-- PRE_EMPT: status 3 for a gang that is not resident or a field that still admits, 1 without a save area; else the drain begins, and the
entry completes with it. DEDUCED, unsafe: log 62. -/
def execPreEmpt (s : State) : Out :=
  .next (s.ring (fun o => o == 1) (fun arg0 arg1 arg2 s =>
    match s.fields.find? (fun f => f.block == arg0 && f.asid == arg1.setWidth 16) with
    | none => s.ringDone 3
    | some f =>
      let gangs := s.requested f (wordBits arg2 31 0)
      if gangs.isEmpty || (f.cls == 0 && !f.go) then s.ringDone 3
      else
        match s.noSaveArea f with
        | (s, none) => s
        | (s, some true) => s.ringDone 1
        | (s, some false) =>
          let s := gangs.foldl (fun (s : State) k => s.startDrain k.id) s
          { s with host := { s.host with draining := gangs.map (fun k => k.id) } }))

/-- END_FIELD: every gang of the field ends without a record, saved ones are discarded, and the completion word shows reason 0xFF.
The entry completes when the last of them has gone. It waits while the host's translation of the block's page is on its way (R530, R532).
DEDUCED, unsafe: log 63. -/
def execEndField (s : State) : Out :=
  .next (s.ring (fun o => o == 2) (fun arg0 arg1 _ s =>
    let asid : BitVec 16 := arg1.setWidth 16
    if s.knownField arg0 asid then
      match s.pageReady asid arg0.toNat needBoth with
      | (s, false) => s
      | (s, true) => ({ s with host := { s.host with ending := some (arg0, asid) } } : State).endField arg0 asid 0xFF
    else s.ringDone 0))

/-- CONDITIONAL_LEAF: the entry is written only while it holds kind 1 and disc = 1 (R471). -/
def execConditionalLeaf (s : State) : Out :=
  .next (s.ring (fun o => o == 3) (fun arg0 arg1 _ s =>
    let chip := wordBits arg0 3 0
    let a := 4096 * wordBits arg0 27 4 + 8 * wordBits arg0 36 28
    let e := s.entryRead chip a
    if s.ddb.chips.contains chip && decide (wordBits arg0 27 4 < framesPerChip) && Leaf.kind e == 1 && Leaf.disc e then
      (s.entryWrite chip a arg1).ringDone 0
    else s.ringDone 1))

/-- SHOOT_DOWN: a range, or with a count of 0 the whole ASID (R256). It waits for near-memory operations on the range (R439). -/
def execShootDown (s : State) : Out :=
  .next (s.ring (fun o => o == 4) (fun arg0 arg1 _ s =>
    let asid : BitVec 16 := arg1.setWidth 16
    let pages := wordBits arg1 63 32
    let lo := if pages = 0 then 0 else arg0.toNat
    let hi := if pages = 0 then 2 ^ 64 else arg0.toNat + 65536 * pages
    if s.nearCovers asid lo hi then s.dropTlbs asid lo hi else (s.shootRange asid lo hi).ringDone 0))

/-- UNKNOWN_HOST_OP: status 0xFF and no effect. -/
def execUnknownHostOp (s : State) : Out :=
  .next (s.ring (fun o => decide (o = 0 ∨ 4 < o)) (fun _ _ _ s => s.ringDone 0xFF))

/-! ## Bias (R531, R532) -/

def State.biasEntry (s : State) (k : Nat) : Bias := Table.get s.host.bias k { va := 0, asid := 0, dev := false, busy := false, pages := 0, toDev := false, toPages := 0 }
def State.setBias (s : State) (k : Nat) (b : Bias) : State := { s with host := { s.host with bias := Table.put s.host.bias k b } }

/-- Every line of the pages that an entry named before its flip is written back and invalidated, L1 and GAU lines invalidated. -/
def State.flushBias (s : State) (b : Bias) : State :=
  let lo := b.va.toNat
  let hi := lo + 65536 * b.pages
  let s := s.gau.foldl (fun (s : State) e => s.gauWriteBack e.1 true (fun l => l.asid == b.asid && inRange l.granule lo hi)) s
  let s := s.ddb.chips.foldl (fun (s : State) c => s.dropLines c true (fun l => l.asid == b.asid && inRange l.granule lo hi)) s
  s.dropL1 b.asid lo hi

/-- A write of dword 1 begins a flip where it changes the mode or, in device bias, the pages; it is ignored while a flip runs. DEDUCED, unsafe: log 68. -/
def State.biasWrite (s : State) (k : Nat) (w : Word64) : State :=
  let b := s.biasEntry k
  let dev := w.getLsbD 63
  if b.busy then s
  else if b.dev || dev then s.setBias k { b with busy := true, toDev := dev, toPages := wordBits w 31 0 }
  else s.setBias k { b with pages := wordBits w 31 0 }

/-- A flip towards a mode completes: the pages that were in device bias are flushed first. -/
def State.biasDone (s : State) (k : Nat) (dev : Bool) : State :=
  let b := s.biasEntry k
  if !b.busy || b.toDev != dev then s
  else (((if b.dev then s.flushBias b else s).setBias k { b with dev, busy := false, pages := b.toPages }).countEvent 28 4).serveIncoming

/-- The event of a flip: its begin by the host's write, or its completion. -/
def State.biasFlip (s : State) (k : Nat) (w : Word64) (dev : Bool) : State :=
  if (s.biasEntry k).busy then s.biasDone k dev else if w.getLsbD 63 != dev then s else s.biasWrite k w

/-- A write of dword 0 names other pages; it is ignored while a flip runs and in device bias, where the old pages have not been flushed.
DESIGN CHOICE, unsafe: log 113. -/
def State.biasName (s : State) (k : Nat) (w : Word64) : State :=
  let b := s.biasEntry k
  if b.busy || b.dev then s else s.setBias k { b with va := w &&& ones 63 16, asid := w.setWidth 16 }

/-- BIAS_FLIP_TO_HOST: every home writes back and invalidates the range's lines, then the pages are in host bias. -/
def execBiasFlipToHost (k : Fin 64) (w : Word64) (s : State) : Out := .next (s.biasFlip k.val w false)

/-- BIAS_FLIP_TO_DEVICE: the host's cached lines of the range are taken, then the pages are in device bias. -/
def execBiasFlipToDevice (k : Fin 64) (w : Word64) (s : State) : Out := .next (s.biasFlip k.val w true)

/-! ## Registers written from outside the strands (R251, R258, R489, R499, R510–R512, R519–R527, R529–R534)

A write reaches a register only from an agent that its Access column names, or from host and firmware where the spec names none; reserved bits keep
zero. DESIGN CHOICE, unsafe: log 113. -/

/-- The bits of RTROOT, a window register, an event selector, a route and LLBASE that hold fields. -/
def rtrootBits : Word64 := ones 63 63 ||| ones 27 0
def winBits : Word64 := ones 63 58 ||| ones 47 0
def evselBits : Word64 := ones 63 63 ||| ones 16 0
def routeBits : Word64 := ones 63 63 ||| ones 15 8 ||| ones 5 3 ||| ones 1 0
def llBaseBits : Word64 := ones 63 63 ||| ones 55 12 ||| ones 7 4
def pasidBits : Word32 := 0x800FFFFF

/-- A write of PWRLIM: a limit outside 1,000–4,400 W leaves the register. DESIGN CHOICE, unsafe: log 113. -/
def pwrlimAfter (old w : Word64) : Word64 := if 1000 ≤ wordBits w 15 0 ∧ wordBits w 15 0 ≤ 4400 then w &&& ones 31 0 else old

/-- A write of EXPBASE: an address that is not canonical, or lies in the peer aperture, leaves the register. DESIGN CHOICE, unsafe: log 113. -/
def expBaseAfter (old w : Word64) : Word64 := if canonical w && !aperture w then w &&& ones 63 16 else old

/-- The host die's registers that software writes, but for the bias table: those of the ring, the launch list, the export window, the limits and the
routes. -/
def HostDie.write (h : HostDie) (who : Writer) (off : Nat) (w : Word64) : HostDie :=
  if who = .lamplighter then h
  else if 0x4000 ≤ off ∧ off < 0x8000 then
    (if who = .firmware then { h with peerrt := Table.put h.peerrt ((off - 0x4000) / 8) (w &&& routeBits) } else h)
  else match off with
    | 0x100 => { h with hcrBase := w }
    | 0x108 => { h with hcrSize := w.setWidth 5 }
    | 0x110 => if who = .host then { h with hcrTail := w } else h
    | 0x120 => if who = .host then { h with llBase := w &&& llBaseBits } else h
    | 0x128 => { h with llAsid := w.setWidth 16 }
    | 0x140 => { h with expBase := expBaseAfter h.expBase w }
    | 0x148 => { h with expLen := w &&& ones 63 16 }
    | 0x150 => { h with expAsid := w.setWidth 16 }
    | 0x160 => { h with pwrlim := pwrlimAfter h.pwrlim w }
    | 0x168 => { h with ftimeout := w }
    | 0x170 => { h with prito := w }
    | _ => h

/-- A write of a lane's health register: zero errors clear them, and the Lamplighter sets and clears the erasure flag of a lane of the mask (R523). -/
def LaneHealth.write (h : LaneHealth) (lamplighter inMask : Bool) (w : Word64) : LaneHealth :=
  { h with serr := if wordBits w 63 48 = 0 then 0 else h.serr, eras := if lamplighter then w.getLsbD 1 && inMask else h.eras }

/-- A write to an optical port's block (R519, R520, R522, R523, R525, R526). -/
def State.portWrite (s : State) (p : PortId) (who : Writer) (off : Nat) (w : Word64) : State :=
  let q := s.port p
  let lamp : Bool := who == .lamplighter && s.lampPort p
  let next (o : Out) : State := match o with | .next t => t | _ => s
  if off = 0 then (if lamp then next (execOpwidthWrite p w s) else s)
  else if off = 0x020 then (if lamp then next (execLasstWrite p w s) else s)
  else if 0x100 ≤ off ∧ off < 0x200 then
    (let n := (off - 0x100) / 8
     if who == .lamplighter && !lamp then s else s.setLane p n (fun h => h.write lamp (q.inUse.getLsbD n) w))
  else if who = .lamplighter then s
  else if off = 0x008 then s.setPort p { q with rxtune := w.setWidth 20 |>.setWidth 32 }
  else if off = 0x018 then s.setPort p { q with rxmin := w.setWidth 12 }
  else if 0x040 ≤ off ∧ off < 0x060 then s.setPort p { q with mcmemb := q.mcmemb.set (Fin.ofNat 4 ((off - 0x040) / 8)) w }
  else s

/-- A write to an endpoint's configuration block, at an offset that is a multiple of 8; a die that is not there ignores it (R499). -/
def State.blockWrite (s : State) (who : Writer) (e off : Nat) (w : Word64) : State :=
  if off % 8 ≠ 0 ∨ !s.liveEndpoint e then s
  else if 0x800 ≤ off ∧ off < 0x8F0 then
    (if who = .firmware ∧ pairExists e ((off - 0x800) / 8) then s.setPrr e ((off - 0x800) / 8) w else s)
  else if 0xC00 ≤ off ∧ off < 0xC40 then
    (if who = .lamplighter then s else { s with evsel := Table.put s.evsel (e, (off - 0xC00) / 8) (w &&& evselBits) })
  else if 0xC40 ≤ off ∧ off < 0xC80 then (if who = .lamplighter then s else { s with evcnt := Table.put s.evcnt (e, (off - 0xC40) / 8) w })
  else if 8 ≤ e ∧ e < 24 then
    (let c := s.chip (e - 8)
     if who ≠ .host then s
     else if off = 0 then s.setChip (e - 8) { c with rtroot := w &&& rtrootBits }
     else if 0x100 ≤ off ∧ off < 0x180 then s.setChip (e - 8) { c with win := Table.put c.win ((off - 0x100) / 8) (w &&& winBits) }
     else s)
  else if 24 ≤ e ∧ e < 28 then
    (let d : Fin 4 := Fin.ofNat 4 (e - 24)
     if off = 0x040 ∧ who = .lamplighter then (match execLlkick d s with | .next t => t | _ => s)
     else if 0x2000 ≤ off ∧ off < 0x3000 then s.portWrite ⟨d, 4⟩ who (off - 0x2000) w
     else if 0x3000 ≤ off ∧ off < 0x4000 then s.portWrite ⟨d, 5⟩ who (off - 0x3000) w
     else s)
  else if e = hostDieEndpoint then
    (if 0x9000 ≤ off ∧ off < 0x9400 then
       (let k := (off - 0x9000) / 16
        if who = .lamplighter then s else if off % 16 = 0 then s.biasName k w else s.biasWrite k w)
     else { s with host := s.host.write who off w })
  else s

/-- A write of two entries of the PASID table (R529). -/
def HostDie.writePasid (h : HostDie) (n : Nat) (w : Word64) : HostDie :=
  { h with pasid := Table.put (Table.put h.pasid n (w.setWidth 32 &&& pasidBits)) (n + 1) (w.extractLsb' 32 32 &&& pasidBits) }

/-- A write at an offset of the configuration aperture that is a multiple of 8 (R499, R500, R529): the broadcast block stands for every live chiplet. -/
def State.configWrite (s : State) (who : Writer) (a : Nat) (w : Word64) : State :=
  if 0x1000 ≤ a ∧ a < 0x2000 then (if who = .host then { s with sconce := s.sconce.write (a - 0x1000) w } else s)
  else if 0x1000000 ≤ a ∧ a < 0x1000000 + 0x10000 * 30 then s.blockWrite who ((a - 0x1000000) / 0x10000) (a % 0x10000) w
  else if 0x2000000 ≤ a ∧ a < 0x2040000 ∧ a % 8 = 0 then
    (if who = .lamplighter then s else { s with host := s.host.writePasid ((a - 0x2000000) / 4) w })
  else if 0x3000000 ≤ a ∧ a < 0x3010000 then s.ddb.chips.foldl (fun (s : State) c => s.blockWrite who (8 + c) (a % 0x10000) w) s
  else s

/-! ## The host's appends to the launch list (R502) -/

/-- The list's pages may be accessed now, and the list is there. -/
def State.withList (s : State) (eff : Nat → Nat → State → State) : State :=
  match s.launchList with
  | none => s
  | some (base, entries) =>
    match s.listReady with
    | (s, false) => s
    | (s, true) => eff base entries s

/-- Step 1: a fetch-add on tail, whose old value the host reads. -/
def State.hostTake (s : State) : State :=
  s.withList (fun base _ s => match s.homeRmw base s.host.llAsid true 8 (fun t => t + 1) with
    | (s, some t) => { s with host := { s.host with readData := BitVec.ofNat 64 t } }
    | (s, none) => s)

/-- Step 2: the second dword of slot t mod size. -/
def State.hostFill (s : State) (t : Nat) (asid : BitVec 16) : State :=
  s.withList (fun base entries s => (s.homeSet (listEntry base (t % entries) + 8) s.host.llAsid true 8 asid.toNat).1)

/-- Step 3: a compare-and-swap of the first dword from 0. -/
def State.hostInstall (s : State) (t : Nat) (block : Word64) : State :=
  s.withList (fun base entries s =>
    (s.homeRmw (listEntry base (t % entries)) s.host.llAsid true 8 (fun v => if v = 0 then (block.toNat ||| 1) else v)).1)

/-! ## Registers read from outside the strands (R498–R500, R519–R529) -/

/-- An optical port's register at an offset of its block (R519, R520, R522, R523, R525, R526). FLOAD counts no more flits than were ever sent. -/
def FabricPort.read (q : FabricPort) (load off : Nat) : Word64 :=
  let lanes (f : LaneHealth → Nat) : Nat := (List.range 32).foldl (fun n i => n + f (q.lane i) * 4 ^ i) 0
  BitVec.ofNat 64 (
    if off = 0 then (if q.req then 2 ^ 63 else 0) + q.wc.toNat * 2 ^ 56 + q.cur.toNat * 2 ^ 32 + q.mask.toNat
    else if off = 0x008 then q.rxtune.toNat
    else if off = 0x018 then q.rxmin.toNat
    else if off = 0x020 then lanes (fun h => h.las.toNat)
    else if off = 0x028 then min q.fload load
    else if off = 0x030 then q.lasclamp.toNat
    else if 0x040 ≤ off ∧ off < 0x060 then (q.mcmemb[Fin.ofNat 4 ((off - 0x040) / 8)]).toNat
    else if 0x100 ≤ off ∧ off < 0x200 then
      let n := (off - 0x100) / 8
      let h := q.lane n
      h.serr.toNat * 2 ^ 48 + h.rxpwr.toNat * 2 ^ 36 + h.bias.toNat * 2 ^ 24 + h.temp.toNat * 2 ^ 16 + h.lock.toNat * 64 + h.las.toNat * 16 +
        (if q.inUse.getLsbD n then 4 else 0) + (if h.eras then 2 else 0)
    else 0)

/-- The host die's register at an offset of its block (R499). -/
def HostDie.read (h : HostDie) (off : Nat) : Word64 :=
  if off = 0x100 then h.hcrBase else if off = 0x108 then h.hcrSize.setWidth 64 else if off = 0x110 then h.hcrTail else if off = 0x118 then h.hcrHead
  else if off = 0x120 then h.llBase else if off = 0x128 then h.llAsid.setWidth 64 else if off = 0x130 then h.llDrop
  else if off = 0x140 then h.expBase else if off = 0x148 then h.expLen else if off = 0x150 then h.expAsid.setWidth 64
  else if off = 0x158 then h.peererr else if off = 0x160 then h.pwrlim else if off = 0x168 then h.ftimeout else if off = 0x170 then h.prito
  else if 0x4000 ≤ off ∧ off < 0x8000 then Table.get h.peerrt ((off - 0x4000) / 8) 0
  else if 0x9000 ≤ off ∧ off < 0x9400 then
    match h.bias.find? (fun e => e.1 == (off - 0x9000) / 16) with
    | none => 0
    | some e =>
      if off % 16 = 0 then e.2.va &&& ones 63 16 ||| e.2.asid.setWidth 64
      else BitVec.ofNat 64 ((if e.2.dev then 2 ^ 63 else 0) + (if e.2.busy then 2 ^ 62 else 0) + e.2.pages % 2 ^ 32)
  else 0

/-- A dword of an endpoint's configuration block, at an offset that is a multiple of 8 (R499): all ones for a die that is not there. -/
def State.blockRead (s : State) (e off : Nat) : Word64 :=
  if !s.liveEndpoint e then 0xFFFFFFFFFFFFFFFF#64
  else if 0x800 ≤ off ∧ off < 0x8F0 then (if pairExists e ((off - 0x800) / 8) then (s.pair e ((off - 0x800) / 8)).prr else 0)
  else if 0xC00 ≤ off ∧ off < 0xC40 then Table.get s.evsel (e, (off - 0xC00) / 8) 0
  else if 0xC40 ≤ off ∧ off < 0xC80 then Table.get s.evcnt (e, (off - 0xC40) / 8) 0
  else if 8 ≤ e ∧ e < 24 then
    (if off = 0 then (s.chip (e - 8)).rtroot
     else if 0x100 ≤ off ∧ off < 0x180 then Table.get (s.chip (e - 8)).win ((off - 0x100) / 8) 0
     else 0)
  else if 24 ≤ e ∧ e < 28 then
    (let d : Fin 4 := Fin.ofNat 4 (e - 24)
     if off = 0x048 then BitVec.ofNat 64 ((if (s.lamp d).running then 2 ^ 63 else 0) + (s.lamp d).resets.toNat)
     else if 0x2000 ≤ off ∧ off < 0x3000 then (s.port ⟨d, 4⟩).read (Config.flitLoad s.fresh) (off - 0x2000)
     else if 0x3000 ≤ off ∧ off < 0x4000 then (s.port ⟨d, 5⟩).read (Config.flitLoad s.fresh) (off - 0x3000)
     else 0)
  else if e = hostDieEndpoint then s.host.read off
  else 0

/-- What a read of the broadcast block returns: the lowest-numbered live chiplet's register. -/
def State.broadcastRead (s : State) (off : Nat) : Word64 :=
  match s.ddb.chips.min? with | some c => s.blockRead (8 + c) off | none => 0xFFFFFFFFFFFFFFFF#64

/-- What the host reads at an offset of the configuration aperture that is a multiple of 8 (R498–R500, R529). -/
def State.configRead (s : State) (a : Nat) : Word64 :=
  if a < 0x100 then s.ddbWord a
  else if 0x1000 ≤ a ∧ a < 0x2000 then s.sconce.read (a - 0x1000)
  else if 0x1000000 ≤ a ∧ a < 0x1000000 + 0x10000 * 30 then s.blockRead ((a - 0x1000000) / 0x10000) (a % 0x10000)
  else if 0x2000000 ≤ a ∧ a < 0x2040000 then
    (let n := (a - 0x2000000) / 4
     (Table.get s.host.pasid (n + 1) 0 &&& pasidBits) ++ (Table.get s.host.pasid n 0 &&& pasidBits))
  else if 0x3000000 ≤ a ∧ a < 0x3010000 then s.broadcastRead (a % 0x10000)
  else 0

/-- BROADCAST_WRITE: a write from outside the strands; one to the broadcast block is performed at the same offset of every live chiplet. The table
has no row of its own for the others. DESIGN CHOICE, safe: log 33. -/
def execBroadcastWrite (w : HostWrite) (s : State) : Out :=
  .next (match w with
    | .register who a data => s.configWrite who a data
    | .memory a data => { s with host := { s.host with mem := s.host.mem.writeBytes a data } }
    | .takeSlot => s.hostTake
    | .fillSlot t asid => s.hostFill t asid
    | .installSlot t block => s.hostInstall t block)

/-- BROADCAST_READ: the register, after every earlier broadcast write; and any other dword of the configuration aperture. -/
def execBroadcastRead (a : Nat) (s : State) : Out :=
  .next { s with fresh := s.fresh + 1, host := { s.host with readData := if a % 8 = 0 then s.configRead a else 0 } }

/-! ## ATS and PRI (R529, R530) -/

/-- What an access that waits for the host needs of its page. -/
def Access.hostNeed (a : Access) : Need :=
  if a.kind == .operation then ⟨decide (a.cmp.toNat = 0), decide (a.cmp.toNat = 1), decide (a.cmp.toNat = 2)⟩ else a.need

/-- The request is answered: a request for a translation alone is over, an access is tried again. -/
def State.answered (s : State) (a : Access) : State := if a.kind == .operation then s.dropAccess a.n else s.setStatus a.n .issued

/-- The group of an access's page request: its ASID and page. DEDUCED, unsafe: log 72. -/
def Access.group (a : Access) : BitVec 16 × Nat := (a.asid, a.va.toNat / 65536)

/-- The home sends a page request for an access that the host denied, unless one of its group is outstanding; at most 512 are, and an access beyond them
waits (R530). -/
def State.askPage (s : State) (a : Access) : State :=
  if s.host.pageRequests.contains a.group then s.setStatus a.n .pageRequest
  else if 512 ≤ s.host.pageRequests.length then s
  else (({ s with host := { s.host with pageRequests := s.host.pageRequests ++ [a.group] } } : State).setStatus a.n .pageRequest).countEvent 28 3

/-- ATS_COMPLETION: the completion is cached at the home and checked; one that denies the access makes the home send a page request. -/
def execAtsCompletion (n : Nat) (r : AtsReply) (s : State) : Out :=
  .next (match s.access.find? (fun a => a.n == n && a.status == .host) with
    | none => s
    | some a =>
      let s := s.countEvent 28 2
      if r.granted && atsPermits r a.hostNeed then
        match s.walk a.asid a.va.toNat with
        | .leaf e big _ _ => ((s.tlbFill (s.home a.va.toNat) a.asid a.va.toNat e big (some r)).answered a).serveIncoming
        | _ => (s.setStatus n (.faulted pageFault)).serveIncoming
      else s.askPage a)

/-- The page request of an access is over, for every access of its group. -/
def State.pageAnswer (s : State) (n : Nat) (st : Status) : State :=
  match s.access.find? (fun a => a.n == n && a.status == .pageRequest) with
  | none => s
  | some a =>
    let s : State := { s with host := { s.host with pageRequests := s.host.pageRequests.filter (fun g => g != a.group) } }
    ({ s with access := s.access.map (fun b => if b.status == .pageRequest && b.group == a.group then { b with status := st } else b) } : State).serveIncoming

/-- PRI_RESPONSE: after success the home translates again; any other response faults the access. -/
def execPriResponse (n : Nat) (ok : Bool) (s : State) : Out := .next (s.pageAnswer n (if ok then .host else .faulted pageFault))

/-- PRI_TIMEOUT: no response within PRITO faults the access. -/
def execPriTimeout (n : Nat) (s : State) : Out := .next (s.pageAnswer n (.faulted pageFault))

/-- ATS_INVALIDATION: a shootdown of the range; the completion follows it. -/
def execAtsInvalidation (asid : BitVec 16) (va : Word64) (pages : Nat) (s : State) : Out :=
  .next (if s.nearCovers asid va.toNat (va.toNat + 65536 * pages) then s.dropTlbs asid va.toNat (va.toNat + 65536 * pages) else s.shootRange asid va.toNat (va.toNat + 65536 * pages))

/-! ## Power (R534) -/

/-- The clocks step down by 62.5 MHz. -/
def State.stepDown (s : State) : State := ({ s with host := { s.host with steps := s.host.steps + 1 } } : State).countEvent 28 6

/-- POWER_THROTTLE: average power above the limit steps the clocks down and raises vector 4 (R528). DESIGN CHOICE, safe: log 75. -/
def execPowerThrottle (watts : Nat) (s : State) : Out := .next (if watts ≤ wordBits s.host.pwrlim 15 0 then s else s.stepDown.raise 4)

/-- THERMAL_TRIP: the clocks step down in the same way. -/
def execThermalTrip (s : State) : Out := .next s.stepDown

end Sys2Proof.Machine
end

