-- ==== Sys2Proof/Machine/LaneCross.lean ====
section
/-! DEFINITION. Meanings of the cross-lane instructions (R77, R222–R231). -/

namespace Sys2Proof.Machine

open Arith (Res Rounding intVal intCode intMin intMax)

/-! ## Membership (R222) -/

/-- The segment width of a width code. -/
def segmentWidth (m : Nat) : Option Nat :=
  match m % 8 with
  | 0 => some 96 | 1 => some 2 | 2 => some 4 | 3 => some 8 | 4 => some 16 | 5 => some 32 | _ => none

/-- The width an operand M gives, when its must-be-zero bits are zero; `bcast` allows a source position below the width. -/
def memberWidth (m : Nat) (bcast : Bool) : Option Nat :=
  match segmentWidth m with
  | some w =>
    let j := bitsOf m 14 8
    if bitsOf m 31 15 == 0 && bitsOf m 7 3 == 0 && (if bcast then decide (j < w) else j == 0) then some w else none
  | none => none

/-- Lane l is a member. -/
def isMember (m : Nat) (l : Nat) : Bool := !m.testBit (32 + l % 32)

/-- A cross-lane instruction: Undefined for its encoding or a bad M, then the Type trap of a tagged register (R114, R222), then the effect with
the width and M. -/
def State.crossLane (s : State) (i : Instr) (f : LaneFields) (mo : Opnd) (bcast : Bool) (eff : State → Nat → Nat → State) : State :=
  let m := s.me.uniform f mo
  match memberWidth m bcast with
  | none => s.laneTrap undefinedCause 0 (s.me.active f.sel)
  | some w => s.laneChecked i f (fun s => eff s w m)

/-- The lanes that take part: active and members. -/
def Strand.takesPart (x : Strand) (f : LaneFields) (m : Nat) (l : Nat) : Bool := (x.evalMask f).getLsbD l && isMember m l

/-- Images written to the lanes of a mask, without flags; the mask register that selects lanes is read as it stands before the instruction
(R108). -/
def Strand.finishMasked (x : Strand) (f : LaneFields) (wide : Bool) (keep : Nat → Bool) (vals : Vector Nat 96) : Strand :=
  let act := x.writeMask f f.dst &&& maskOf (fun l => keep l.val)
  ({ x with lf := x.lf.put f.dst wide act vals } : Strand).retireLane 0

/-! ## Shuffle and broadcast (R224) -/

/-- Each active lane takes the source position p of its segment, or zero when that lane is no member. -/
def Strand.takeFrom (x : Strand) (f : LaneFields) (w m : Nat) (p : Lane → Nat) : Strand :=
  let data : Vector Nat 96 := lanes (fun l => imageOf f.ty (x.elem f f.ty f.a l))
  x.finishMasked f f.ty.wide (fun _ => true) (lanes (fun l =>
    let src := l.val / w * w + p l
    if isMember m src then data.toList.getD src 0 else 0))

/-- `vshuf` (R224). -/
def execVshuf (f : LaneFields) (s : State) : Out :=
  .next (s.crossLane (.vshuf f) f (f.c.getD .zero) false (fun s w m =>
    { s with me := s.me.takeFrom f w m (fun l => s.me.word f f.b l % w) }))

/-- `vbcast` (R224). -/
def execVbcast (f : LaneFields) (s : State) : Out :=
  .next (s.crossLane (.vbcast f) f f.b true (fun s w m => { s with me := s.me.takeFrom f w m (fun _ => bitsOf m 14 8) }))

/-! ## Reduction and scan (R225, R226) -/

/-- The identity of an operation, as an element code. -/
def redIdentity (t : Ty) (op : Nat) : Nat :=
  if t.isF then
    let d := fmt t
    match op with
    | 0 => d.signed true 0
    | 1 => d.infCode
    | _ => d.signed true d.infCode
  else
    match op with
    | 1 => intCode t (intMax t)
    | 2 => intCode t (intMin t)
    | 3 => 2 ^ t.width - 1
    | _ => 0

/-- One node of the tree. -/
def redNode (t : Ty) (op : Nat) (r : Rounding) (a b : Nat) : Res :=
  if t.isF then
    match op with
    | 0 => Arith.add (fmt t) r ((fmt t).val a) ((fmt t).val b)
    | 1 => Arith.minMax (fmt t) false a b
    | _ => Arith.minMax (fmt t) true a b
  else
    match op with
    | 0 => (intCode t (intVal t a + intVal t b), 0)
    | 1 => (intCode t (min (intVal t a) (intVal t b)), 0)
    | 2 => (intCode t (max (intVal t a) (intVal t b)), 0)
    | 3 => (a &&& b, 0)
    | 4 => (a ||| b, 0)
    | _ => (a ^^^ b, 0)

/-- The next level: nodes 2i and 2i + 1 combined, the flags of the level below kept with each node. -/
def nextLevel (node : Nat → Nat → Res) : List Res → List Res
  | a :: b :: rest =>
    let r := node a.1 b.1
    (r.1, r.2 ||| a.2 ||| b.2) :: nextLevel node rest
  | rest => rest

/-- The levels of the tree from the leaves up, k levels above them. -/
def treeLevels (node : Nat → Nat → Res) : Nat → List Res → List (List Res)
  | 0, ls => [ls]
  | k + 1, ls => ls :: treeLevels node k (nextLevel node ls)

/-- The leaves of segment s, padded to a power of two with the identity; the number of levels above them. -/
def segmentLeaves (w : Nat) (ident : Nat) (part : Nat → Bool) (data : Nat → Nat) (s : Nat) : List Res × Nat :=
  let k := if w = 96 then 7 else Nat.log2 w
  ((List.range (2 ^ k)).map (fun p => (if p < w && part (s * w + p) then data (s * w + p) else ident, 0)), k)

/-- The levels of each segment's tree. -/
def segmentTrees (w : Nat) (ident : Nat) (node : Nat → Nat → Res) (part : Nat → Bool) (data : Nat → Nat) : List (List (List Res)) :=
  (List.range (96 / w)).map (fun s =>
    let leaves := segmentLeaves w ident part data s
    treeLevels node leaves.2 leaves.1)

/-- The root of a tree given by its levels. -/
def treeRoot (levels : List (List Res)) : Res := (levels.getLastD []).headD (0, 0)

/-- The prefix of n leaves: the aligned blocks of the binary decomposition, largest first, folded left. -/
def treePrefix (node : Nat → Nat → Res) (ident : Nat) (levels : List (List Res)) (n : Nat) : Res :=
  let blocks : List Res := ((List.range 8).reverse.foldl (fun (st : List Res × Nat) k =>
    if n.testBit k then (st.1 ++ [(levels.getD k []).getD (st.2 / 2 ^ k) (ident, 0)], st.2 + 2 ^ k) else st) ([], 0)).1
  match blocks with
  | [] => (ident, 0)
  | b :: rest => rest.foldl (fun (a : Res) c =>
      let r := node a.1 c.1
      (r.1, r.2 ||| a.2 ||| c.2)) b

/-- The trees of an instruction's segments, as a list by segment number. -/
def Strand.trees (x : Strand) (f : LaneFields) (w m : Nat) : List (List (List Res)) :=
  let data : Vector Nat 96 := lanes (fun l => x.elem f f.ty f.a l)
  segmentTrees w (redIdentity f.ty f.redOp) (redNode f.ty f.redOp ⟨Arith.modeOf false f.rm, 0⟩) (x.takesPart f m) (fun i => data.toList.getD i 0)

/-- `vredu` (R225). -/
def execVredu (f : LaneFields) (s : State) : Out :=
  .next (s.crossLane (.vredu f) f f.b false (fun s w m =>
    let x := s.me
    let roots := (x.trees f w m).map treeRoot
    let rs : Vector Res 96 := lanes (fun l =>
      let r := roots.getD (l.val / w) (0, 0)
      (imageOf f.ty r.1, r.2))
    let s := s.deliver f (scalarOf f.ty (roots.headD (0, 0)).1)
    { s with me := s.me.finishLanes f f.ty.wide 0 rs }))

/-- `vscan`; an exclusive scan when W0 [12] is set (R226). DEDUCED, unsafe: log 18. -/
def execVscan (f : LaneFields) (s : State) : Out :=
  .next (s.crossLane (.vscan f) f f.b false (fun s w m =>
    let x := s.me
    let trees := x.trees f w m
    let ident := redIdentity f.ty f.redOp
    let node := redNode f.ty f.redOp ⟨Arith.modeOf false f.rm, 0⟩
    let rs : Vector Res 96 := lanes (fun l =>
      let n := l.val % w + (if f.hi4.getLsbD 0 then 0 else 1)
      let r := treePrefix node ident (trees.getD (l.val / w) []) n
      (imageOf f.ty r.1, r.2))
    { s with me := x.finishLanes f f.ty.wide 0 rs }))

/-! ## Match, vote, sort, compress (R227–R230) -/

/-- Two keys match: floats as values, a NaN with its own lane only; integers bit for bit. -/
def keysMatch (t : Ty) (l k : Nat) (a b : Nat) : Bool :=
  if t.isF then
    let x := (fmt t).val a
    let y := (fmt t).val b
    if x.isNan || y.isNan then l == k else Arith.eqVal x y
  else a == b

/-- `vmatch`: the lowest participating lane with an equal key (R227). The lane number is an n32 in one register, whatever the key's type.
DESIGN CHOICE, unsafe: log 97. -/
def execVmatch (f : LaneFields) (s : State) : Out :=
  .next (s.crossLane (.vmatch f) f f.b false (fun s w m =>
    let x := s.me
    let keys : List Nat := (lanes (fun l => x.elem f f.ty f.a l) : Vector Nat 96).toList
    let first (l : Nat) : Nat := ((List.range w).find? (fun p =>
      let k := l / w * w + p
      x.takesPart f m k && keysMatch f.ty l k (keys.getD l 0) (keys.getD k 0))).getD 0 + l / w * w
    let part := maskOf (fun l => x.takesPart f m l.val)
    let y := x.finishMasked f false (fun l => part.getLsbD l) (lanes (fun l => first l.val))
    { s with me := { y with lf := y.lf.putMask f.maskNo (part &&& x.todo f.sel) (maskOf (fun l => first l.val == l.val)) } }))

/-- The vote of lane l, given who votes true and who takes part (R228). -/
def voteResult (op w : Nat) (votes part : Nat → Bool) (l : Nat) : Nat :=
  let seg := (List.range w).map (fun p => l / w * w + p)
  match op with
  | 0 => if seg.any votes then 1 else 0
  | 1 => if seg.all (fun k => !part k || votes k) then 1 else 0
  | 2 => (seg.filter votes).length
  | _ => (List.range 32).foldl (fun acc b =>
      let k := l / 32 * 32 + b
      if k / w = l / w ∧ votes k then acc + 2 ^ b else acc) 0

/-- `vvote`; lane 0's vd is not written when lane 0 is no member (R228). -/
def execVvote (f : LaneFields) (s : State) : Out :=
  .next (s.crossLane (.vvote f) f f.b false (fun s w m =>
    let x := s.me
    let op := (f.hi4.extractLsb' 1 2).toNat
    let data : List Nat := (lanes (fun l => x.elem f f.ty f.a l) : Vector Nat 96).toList
    let votes (k : Nat) : Bool := x.takesPart f m k && data.getD k 0 != 0
    let result := voteResult op w votes (x.takesPart f m)
    let s := s.deliver f (BitVec.ofNat 64 (result 0))
    { s with me := s.me.finishMasked f false (fun l => l != 0 || isMember m 0) (lanes (fun l => result l.val)) }))

/-- The order of a key: integers by value, floats from −∞ to +∞ with equal zeros and every NaN last (R229). -/
def sortKey (t : Ty) (a : Nat) : Int :=
  if t.isF then
    let mag := a % 2 ^ 31
    if mag > 0x7F800000 then (2 ^ 40 : Int) else if a.testBit 31 then -((a % 2 ^ 31 : Nat) : Int) else ((a % 2 ^ 31 : Nat) : Int)
  else intVal t a

/-- A lane inserted behind the lanes whose key does not follow its own. -/
def insertKey (before : Int → Int → Bool) (x : Nat × Int) : List (Nat × Int) → List (Nat × Int)
  | [] => [x]
  | y :: ys => if before x.2 y.2 then x :: y :: ys else y :: insertKey before x ys

/-- Lanes sorted by key, stable in lane order. -/
def sortLanes (desc : Bool) (ls : List (Nat × Int)) : List Nat :=
  (ls.foldl (fun acc x => insertKey (fun a b => if desc then decide (b < a) else decide (a < b)) x acc) []).map (·.1)

/-- The k-th participating lane of each segment takes the source lane `src k` of that segment's list, or nothing. -/
def placed (w : Nat) (part : Nat → Bool) (srcs : Nat → List Nat) (l : Nat) : Option Nat :=
  let before := ((List.range (l % w)).filter (fun p => part (l / w * w + p))).length
  (srcs (l / w))[before]?

/-- The participating lanes of segment s. -/
def segmentPart (w : Nat) (part : Nat → Bool) (s : Nat) : List Nat := ((List.range w).map (fun p => s * w + p)).filter part

/-- `vsort`: keys in order to vd, source lanes to vd + 1; descending when W0 [12] is set (R229). -/
def execVsort (f : LaneFields) (s : State) : Out :=
  .next (s.crossLane (.vsort f) f f.b false (fun s w m =>
    let x := s.me
    let keys : List Nat := (lanes (fun l => x.elem f f.ty f.a l) : Vector Nat 96).toList
    let part := x.takesPart f m
    let orders := (List.range (96 / w)).map (fun g =>
      sortLanes (f.hi4.getLsbD 0) ((segmentPart w part g).map (fun l => (l, sortKey f.ty (keys.getD l 0)))))
    { s with me := x.finishMasked f true part (lanes (fun l =>
      match placed w part (fun g => orders.getD g []) l.val with
      | some src => keys.getD src 0 + 2 ^ 32 * src
      | none => 0)) }))

/-- `vcompress`: the sources set in mK to the first participating positions, zero behind them (R230). -/
def execVcompress (f : LaneFields) (s : State) : Out :=
  .next (s.crossLane (.vcompress f) f f.b false (fun s w m =>
    let x := s.me
    let data : List Nat := (lanes (fun l => imageOf f.ty (x.elem f f.ty f.a l)) : Vector Nat 96).toList
    let part := x.takesPart f m
    let k : Fin 8 := (f.w2.extractLsb' 9 3).toFin
    let picks := (List.range (96 / w)).map (fun g => (segmentPart w part g).filter (fun l => x.lf.m[k].getLsbD l))
    let s := s.deliver f (BitVec.ofNat 64 (picks.map List.length).sum)
    { s with me := s.me.finishMasked f f.ty.wide part (lanes (fun l =>
      match placed w part (fun g => picks.getD g []) l.val with
      | some src => data.getD src 0
      | none => 0)) }))

end Sys2Proof.Machine
end

