-- ==== Sys2Proof/Machine/Dispatch.lean ====
section
/-! DEFINITION. The meaning of every constructor of `Instr`: one call each. -/

namespace Sys2Proof.Machine

def exec (i : Instr) (s : State) : Host.Outcome State Fault Refusal :=
  match i with
  | .add d a b => Sys2Proof.Machine.execAdd d a b s
  | .sub d a b => Sys2Proof.Machine.execSub d a b s
  | .mul d a b => Sys2Proof.Machine.execMul d a b s
  | .mulh d a b => Sys2Proof.Machine.execMulh d a b s
  | .mulhn d a b => Sys2Proof.Machine.execMulhn d a b s
  | .div d a b => Sys2Proof.Machine.execDiv d a b s
  | .divn d a b => Sys2Proof.Machine.execDivn d a b s
  | .rem d a b => Sys2Proof.Machine.execRem d a b s
  | .remn d a b => Sys2Proof.Machine.execRemn d a b s
  | .and d a b => Sys2Proof.Machine.execAnd d a b s
  | .or d a b => Sys2Proof.Machine.execOr d a b s
  | .xor d a b => Sys2Proof.Machine.execXor d a b s
  | .andn d a b => Sys2Proof.Machine.execAndn d a b s
  | .shl d a b => Sys2Proof.Machine.execShl d a b s
  | .shr d a b => Sys2Proof.Machine.execShr d a b s
  | .sra d a b => Sys2Proof.Machine.execSra d a b s
  | .rol d a b => Sys2Proof.Machine.execRol d a b s
  | .min d a b => Sys2Proof.Machine.execMin d a b s
  | .max d a b => Sys2Proof.Machine.execMax d a b s
  | .minn d a b => Sys2Proof.Machine.execMinn d a b s
  | .maxn d a b => Sys2Proof.Machine.execMaxn d a b s
  | .seq d a b => Sys2Proof.Machine.execSeq d a b s
  | .sne d a b => Sys2Proof.Machine.execSne d a b s
  | .slt d a b => Sys2Proof.Machine.execSlt d a b s
  | .sle d a b => Sys2Proof.Machine.execSle d a b s
  | .sltn d a b => Sys2Proof.Machine.execSltn d a b s
  | .slen d a b => Sys2Proof.Machine.execSlen d a b s
  | .popc d a => Sys2Proof.Machine.execPopc d a s
  | .clz d a => Sys2Proof.Machine.execClz d a s
  | .ctz d a => Sys2Proof.Machine.execCtz d a s
  | .sextb d a => Sys2Proof.Machine.execSextb d a s
  | .sexth d a => Sys2Proof.Machine.execSexth d a s
  | .sextw d a => Sys2Proof.Machine.execSextw d a s
  | .zextb d a => Sys2Proof.Machine.execZextb d a s
  | .zexth d a => Sys2Proof.Machine.execZexth d a s
  | .zextw d a => Sys2Proof.Machine.execZextw d a s
  | .addi d a imm => Sys2Proof.Machine.execAddi d a imm s
  | .andi d a imm => Sys2Proof.Machine.execAndi d a imm s
  | .ori d a imm => Sys2Proof.Machine.execOri d a imm s
  | .xori d a imm => Sys2Proof.Machine.execXori d a imm s
  | .shli d a n => Sys2Proof.Machine.execShli d a n s
  | .shri d a n => Sys2Proof.Machine.execShri d a n s
  | .srai d a n => Sys2Proof.Machine.execSrai d a n s
  | .slti d a imm => Sys2Proof.Machine.execSlti d a imm s
  | .sltni d a imm => Sys2Proof.Machine.execSltni d a imm s
  | .ldi d imm => Sys2Proof.Machine.execLdi d imm s
  | .ldk d imm => Sys2Proof.Machine.execLdk d imm s
  | .sel d a b c => Sys2Proof.Machine.execSel d a b c s
  | .b o => Sys2Proof.Machine.execB o s
  | .bal o => Sys2Proof.Machine.execBal o s
  | .bc c a o => Sys2Proof.Machine.execBc c a o s
  | .jr a => Sys2Proof.Machine.execJr a s
  | .jalr d a => Sys2Proof.Machine.execJalr d a s
  | .dbnz a o => Sys2Proof.Machine.execDbnz a o s
  | .lrun k c imm => Sys2Proof.Machine.execLrun k c imm s
  | .lrunr k a c => Sys2Proof.Machine.execLrunr k a c s
  | .lwait n => Sys2Proof.Machine.execLwait n s
  | .mget d p k => Sys2Proof.Machine.execMget d p k s
  | .mset a p k => Sys2Proof.Machine.execMset a p k s
  | .ld d a b g p z => Sys2Proof.Machine.execLd d a b g p z s
  | .st d a b p z => Sys2Proof.Machine.execSt d a b p z s
  | .amo d a b o z l => Sys2Proof.Machine.execAmo d a b o z l s
  | .amoNr d a b o z l => Sys2Proof.Machine.execAmoNr d a b o z l s
  | .cas d a b z p => Sys2Proof.Machine.execCas d a b z p s
  | .fenceAr s1 => Sys2Proof.Machine.execFenceAr s1 s
  | .fenceAcq s1 => Sys2Proof.Machine.execFenceAcq s1 s
  | .fenceRel s1 => Sys2Proof.Machine.execFenceRel s1 s
  | .rlock d a p => Sys2Proof.Machine.execRlock d a p s
  | .runlock d a p => Sys2Proof.Machine.execRunlock d a p s
  | .wlock d a p => Sys2Proof.Machine.execWlock d a p s
  | .wunlock d a p => Sys2Proof.Machine.execWunlock d a p s
  | .pause p a => Sys2Proof.Machine.execPause p a s
  | .qdef a b q => Sys2Proof.Machine.execQdef a b q s
  | .push a b o q => Sys2Proof.Machine.execPush a b o q s
  | .pop d b o q => Sys2Proof.Machine.execPop d b o q s
  | .qtryPush d a b o q => Sys2Proof.Machine.execQtryPush d a b o q s
  | .qtryPop d b o q => Sys2Proof.Machine.execQtryPop d b o q s
  | .qinfo d b o q => Sys2Proof.Machine.execQinfo d b o q s
  | .cpy a b t l => Sys2Proof.Machine.execCpy a b t l s
  | .cpyg a b t => Sys2Proof.Machine.execCpyg a b t s
  | .waitc n c => Sys2Proof.Machine.execWaitc n c s
  | .mlds a b => Sys2Proof.Machine.execMlds a b s
  | .mswap => Sys2Proof.Machine.execMswap s
  | .mloop a b => Sys2Proof.Machine.execMloop a b s
  | .cstore a b l => Sys2Proof.Machine.execCstore a b l s
  | .cclr a b => Sys2Proof.Machine.execCclr a b s
  | .xprog a n => Sys2Proof.Machine.execXprog a n s
  | .xmvm a n => Sys2Proof.Machine.execXmvm a n s
  | .xtrim n => Sys2Proof.Machine.execXtrim n s
  | .xcal d a n => Sys2Proof.Machine.execXcal d a n s
  | .nlaunch a b => Sys2Proof.Machine.execNlaunch a b s
  | .nred a b => Sys2Proof.Machine.execNred a b s
  | .nrowZero a b => Sys2Proof.Machine.execNrowZero a b s
  | .nrowCopy a b => Sys2Proof.Machine.execNrowCopy a b s
  | .nfence => Sys2Proof.Machine.execNfence s
  | .flaunch d a => Sys2Proof.Machine.execFlaunch d a s
  | .pdisc d a b => Sys2Proof.Machine.execPdisc d a b s
  | .gets d r => Sys2Proof.Machine.execGets d r s
  | .sets a r => Sys2Proof.Machine.execSets a r s
  | .trap c => Sys2Proof.Machine.execTrap c s
  | .sret => Sys2Proof.Machine.execSret s
  | .mapft d a b => Sys2Proof.Machine.execMapft d a b s
  | .tlbinvOwn d a b => Sys2Proof.Machine.execTlbinvOwn d a b s
  | .tlbinvAsid d a b => Sys2Proof.Machine.execTlbinvAsid d a b s
  | .tlbinvAll d a b => Sys2Proof.Machine.execTlbinvAll d a b s
  | .tlbinvAllasid d a b => Sys2Proof.Machine.execTlbinvAllasid d a b s
  | .ccinvWb d a b => Sys2Proof.Machine.execCcinvWb d a b s
  | .ccinvInv d a b => Sys2Proof.Machine.execCcinvInv d a b s
  | .ccinvWbinv d a b => Sys2Proof.Machine.execCcinvWbinv d a b s
  | .halt => Sys2Proof.Machine.execHalt s
  | .haltGang => Sys2Proof.Machine.execHaltGang s
  | .brk c => Sys2Proof.Machine.execBrk c s
  | .vadd f => Sys2Proof.Machine.execVadd f s
  | .vaddBe f => Sys2Proof.Machine.execVaddBe f s
  | .vsub f => Sys2Proof.Machine.execVsub f s
  | .vmul f => Sys2Proof.Machine.execVmul f s
  | .vmulBe f => Sys2Proof.Machine.execVmulBe f s
  | .vfma f => Sys2Proof.Machine.execVfma f s
  | .vfmaBe f => Sys2Proof.Machine.execVfmaBe f s
  | .vmin f => Sys2Proof.Machine.execVmin f s
  | .vmax f => Sys2Proof.Machine.execVmax f s
  | .vmaxBe f => Sys2Proof.Machine.execVmaxBe f s
  | .vabs f => Sys2Proof.Machine.execVabs f s
  | .vneg f => Sys2Proof.Machine.execVneg f s
  | .vdiv f => Sys2Proof.Machine.execVdiv f s
  | .vsqrt f => Sys2Proof.Machine.execVsqrt f s
  | .vrcp f => Sys2Proof.Machine.execVrcp f s
  | .vrsq f => Sys2Proof.Machine.execVrsq f s
  | .vexp2 f => Sys2Proof.Machine.execVexp2 f s
  | .vlog2 f => Sys2Proof.Machine.execVlog2 f s
  | .vrnd f => Sys2Proof.Machine.execVrnd f s
  | .viadd f => Sys2Proof.Machine.execViadd f s
  | .visub f => Sys2Proof.Machine.execVisub f s
  | .vimul f => Sys2Proof.Machine.execVimul f s
  | .vimulh f => Sys2Proof.Machine.execVimulh f s
  | .vimad f => Sys2Proof.Machine.execVimad f s
  | .vimin f => Sys2Proof.Machine.execVimin f s
  | .vimax f => Sys2Proof.Machine.execVimax f s
  | .viabs f => Sys2Proof.Machine.execViabs f s
  | .vand f => Sys2Proof.Machine.execVand f s
  | .vor f => Sys2Proof.Machine.execVor f s
  | .vxor f => Sys2Proof.Machine.execVxor f s
  | .vnot f => Sys2Proof.Machine.execVnot f s
  | .vshl f => Sys2Proof.Machine.execVshl f s
  | .vshr f => Sys2Proof.Machine.execVshr f s
  | .vpopc f => Sys2Proof.Machine.execVpopc f s
  | .vclz f => Sys2Proof.Machine.execVclz f s
  | .vcmp f => Sys2Proof.Machine.execVcmp f s
  | .vsel f => Sys2Proof.Machine.execVsel f s
  | .vclass f => Sys2Proof.Machine.execVclass f s
  | .vmov f => Sys2Proof.Machine.execVmov f s
  | .vlane f => Sys2Proof.Machine.execVlane f s
  | .vcvt f => Sys2Proof.Machine.execVcvt f s
  | .vcvtBe f => Sys2Proof.Machine.execVcvtBe f s
  | .vqblk f => Sys2Proof.Machine.execVqblk f s
  | .vdqblk f => Sys2Proof.Machine.execVdqblk f s
  | .afma f => Sys2Proof.Machine.execAfma f s
  | .aadd f => Sys2Proof.Machine.execAadd f s
  | .aclr f => Sys2Proof.Machine.execAclr f s
  | .anarrow f => Sys2Proof.Machine.execAnarrow f s
  | .awiden f => Sys2Proof.Machine.execAwiden f s
  | .vaccept f => Sys2Proof.Machine.execVaccept f s
  | .vbound f => Sys2Proof.Machine.execVbound f s
  | .vshuf f => Sys2Proof.Machine.execVshuf f s
  | .vbcast f => Sys2Proof.Machine.execVbcast f s
  | .vredu f => Sys2Proof.Machine.execVredu f s
  | .vscan f => Sys2Proof.Machine.execVscan f s
  | .vmatch f => Sys2Proof.Machine.execVmatch f s
  | .vvote f => Sys2Proof.Machine.execVvote f s
  | .vsort f => Sys2Proof.Machine.execVsort f s
  | .vcompress f => Sys2Proof.Machine.execVcompress f s
  | .vld f => Sys2Proof.Machine.execVld f s
  | .vst f => Sys2Proof.Machine.execVst f s
  | .vldl f => Sys2Proof.Machine.execVldl f s
  | .vldlBe f => Sys2Proof.Machine.execVldlBe f s
  | .vstl f => Sys2Proof.Machine.execVstl f s
  | .vatom f => Sys2Proof.Machine.execVatom f s
  | .vred f => Sys2Proof.Machine.execVred f s
  | .vcas f => Sys2Proof.Machine.execVcas f s
  | .lcopy f => Sys2Proof.Machine.execLcopy f s
  | .vpref f => Sys2Proof.Machine.execVpref f s
  | .nif k => Sys2Proof.Machine.execNif k s
  | .nelse => Sys2Proof.Machine.execNelse s
  | .nendif => Sys2Proof.Machine.execNendif s
  | .ncol d a w2 => Sys2Proof.Machine.execNcol d a w2 s
  | .ncolw a c => Sys2Proof.Machine.execNcolw a c s
  | .nact a w2 => Sys2Proof.Machine.execNact a w2 s
  | .rngseedWrite a => Sys2Proof.Machine.execRngseedWrite a s
  | .flagsRead d => Sys2Proof.Machine.execFlagsRead d s
  | .flagsWrite a => Sys2Proof.Machine.execFlagsWrite a s
  | .lcbWrite a => Sys2Proof.Machine.execLcbWrite a s
  | .qbaseWrite a => Sys2Proof.Machine.execQbaseWrite a s
  | .prioWrite a => Sys2Proof.Machine.execPrioWrite a s
  | .tvecWrite a => Sys2Proof.Machine.execTvecWrite a s
  | .portCycle c p => Sys2Proof.Machine.execPortCycle c p s
  | .wickPromotion t => Sys2Proof.Machine.execWickPromotion t s
  | .starvation t => Sys2Proof.Machine.execStarvation t s
  | .pauseExpiry t => Sys2Proof.Machine.execPauseExpiry t s
  | .blockTimeout t => Sys2Proof.Machine.execBlockTimeout t s
  | .taper q => Sys2Proof.Machine.execTaper q s
  | .scalarLoadReply n => Sys2Proof.Machine.execScalarLoadReply n s
  | .scalarFaultReply t => Sys2Proof.Machine.execScalarFaultReply t s
  | .laneLoadReply n chip => Sys2Proof.Machine.execLaneLoadReply n chip s
  | .homeAccess n => Sys2Proof.Machine.execHomeAccess n s
  | .tableWalk n => Sys2Proof.Machine.execTableWalk n s
  | .pageRevival n => Sys2Proof.Machine.execPageRevival n s
  | .homeAtomic n => Sys2Proof.Machine.execHomeAtomic n s
  | .gauAtomic n => Sys2Proof.Machine.execGauAtomic n s
  | .bankAluAtomic n => Sys2Proof.Machine.execBankAluAtomic n s
  | .peerGAccess n => Sys2Proof.Machine.execPeerGAccess n s
  | .localBankWake c u bank => Sys2Proof.Machine.execLocalBankWake c u bank s
  | .llcWayGate chip way => Sys2Proof.Machine.execLlcWayGate chip way s
  | .shootdown n => Sys2Proof.Machine.execShootdown n s
  | .launchIntake => Sys2Proof.Machine.execLaunchIntake s
  | .gangClaim die => Sys2Proof.Machine.execGangClaim die s
  | .concurrentAdmission die => Sys2Proof.Machine.execConcurrentAdmission die s
  | .strandRetire t => Sys2Proof.Machine.execStrandRetire t s
  | .gangRetire g => Sys2Proof.Machine.execGangRetire g s
  | .copyOperation c n => Sys2Proof.Machine.execCopyOperation c n s
  | .lcopyOperation c n => Sys2Proof.Machine.execLcopyOperation c n s
  | .operationRetire t cls => Sys2Proof.Machine.execOperationRetire t cls s
  | .dmeCommandExecute c => Sys2Proof.Machine.execDmeCommandExecute c s
  | .mloopStep c => Sys2Proof.Machine.execMloopStep c s
  | .dmeOwnershipPass c => Sys2Proof.Machine.execDmeOwnershipPass c s
  | .xprogExecute c n => Sys2Proof.Machine.execXprogExecute c n s
  | .xmvmExecute c n => Sys2Proof.Machine.execXmvmExecute c n s
  | .xtrimExecute c n => Sys2Proof.Machine.execXtrimExecute c n s
  | .xcalExecute c n => Sys2Proof.Machine.execXcalExecute c n s
  | .nearPhase1 c n => Sys2Proof.Machine.execNearPhase1 c n s
  | .nearPhase2 c n => Sys2Proof.Machine.execNearPhase2 c n s
  | .nredReduce c n chip => Sys2Proof.Machine.execNredReduce c n chip s
  | .trapEntry t => Sys2Proof.Machine.execTrapEntry t s
  | .preEmptionDrain g => Sys2Proof.Machine.execPreEmptionDrain g s
  | .gangRestore g die => Sys2Proof.Machine.execGangRestore g die s
  | .sconceBoot flash => Sys2Proof.Machine.execSconceBoot flash s
  | .ddbPublish untrained => Sys2Proof.Machine.execDdbPublish untrained s
  | .getVersion => Sys2Proof.Machine.execGetVersion s
  | .getCapabilities => Sys2Proof.Machine.execGetCapabilities s
  | .negotiateAlgorithms => Sys2Proof.Machine.execNegotiateAlgorithms s
  | .getDigests => Sys2Proof.Machine.execGetDigests s
  | .getCertificate => Sys2Proof.Machine.execGetCertificate s
  | .challenge nonce => Sys2Proof.Machine.execChallenge nonce s
  | .getMeasurements imm => Sys2Proof.Machine.execGetMeasurements imm s
  | .unsupportedRequest code => Sys2Proof.Machine.execUnsupportedRequest code s
  | .imageChunk => Sys2Proof.Machine.execImageChunk s
  | .imageDone => Sys2Proof.Machine.execImageDone s
  | .leaveOut => Sys2Proof.Machine.execLeaveOut s
  | .keyslot => Sys2Proof.Machine.execKeyslot s
  | .preEmpt => Sys2Proof.Machine.execPreEmpt s
  | .endField => Sys2Proof.Machine.execEndField s
  | .conditionalLeaf => Sys2Proof.Machine.execConditionalLeaf s
  | .shootDown => Sys2Proof.Machine.execShootDown s
  | .unknownHostOp => Sys2Proof.Machine.execUnknownHostOp s
  | .broadcastWrite w => Sys2Proof.Machine.execBroadcastWrite w s
  | .broadcastRead a => Sys2Proof.Machine.execBroadcastRead a s
  | .interposerFlit src dst sent crcOk offered => Sys2Proof.Machine.execInterposerFlit src dst sent crcOk offered s
  | .colourLost src dst colour => Sys2Proof.Machine.execColourLost src dst colour s
  | .prrWrite src dst w => Sys2Proof.Machine.execPrrWrite src dst w s
  | .pairModeChange src dst relay => Sys2Proof.Machine.execPairModeChange src dst relay s
  | .requestFlit p h o bytes op => Sys2Proof.Machine.execRequestFlit p h o bytes op s
  | .replyFlit p h n error data => Sys2Proof.Machine.execReplyFlit p h n error data s
  | .ackFlit p h upto => Sys2Proof.Machine.execAckFlit p h upto s
  | .widthMarker p h wc mask => Sys2Proof.Machine.execWidthMarker p h wc mask s
  | .managementFlit p h link => Sys2Proof.Machine.execManagementFlit p h link s
  | .idleFlit p => Sys2Proof.Machine.execIdleFlit p s
  | .unknownKindFlit p kind => Sys2Proof.Machine.execUnknownKindFlit p kind s
  | .replayRequest p h from1 => Sys2Proof.Machine.execReplayRequest p h from1 s
  | .peerTimeout n => Sys2Proof.Machine.execPeerTimeout n s
  | .copperRetrain p lane => Sys2Proof.Machine.execCopperRetrain p lane s
  | .retrainComplete p ok => Sys2Proof.Machine.execRetrainComplete p ok s
  | .erasureSet p lane => Sys2Proof.Machine.execErasureSet p lane s
  | .opwidthWrite p w => Sys2Proof.Machine.execOpwidthWrite p w s
  | .widthChange p => Sys2Proof.Machine.execWidthChange p s
  | .lasstWrite p w => Sys2Proof.Machine.execLasstWrite p w s
  | .laneWake p lane => Sys2Proof.Machine.execLaneWake p lane s
  | .standbyReached p lane => Sys2Proof.Machine.execStandbyReached p lane s
  | .lasclampWrite p w sconce => Sys2Proof.Machine.execLasclampWrite p w sconce s
  | .llkick die => Sys2Proof.Machine.execLlkick die s
  | .lamplighterWatchdog die => Sys2Proof.Machine.execLamplighterWatchdog die s
  | .atsCompletion n r => Sys2Proof.Machine.execAtsCompletion n r s
  | .atsInvalidation asid va pages => Sys2Proof.Machine.execAtsInvalidation asid va pages s
  | .priResponse n ok => Sys2Proof.Machine.execPriResponse n ok s
  | .priTimeout n => Sys2Proof.Machine.execPriTimeout n s
  | .biasFlipToHost k w => Sys2Proof.Machine.execBiasFlipToHost k w s
  | .biasFlipToDevice k w => Sys2Proof.Machine.execBiasFlipToDevice k w s
  | .powerThrottle watts => Sys2Proof.Machine.execPowerThrottle watts s
  | .thermalTrip => Sys2Proof.Machine.execThermalTrip s
  | .undefinedScalarWord w => Sys2Proof.Machine.execUndefinedScalarWord w s
  | .undefinedLaneOpcode w => Sys2Proof.Machine.execUndefinedLaneOpcode w s
  | .lamplighterRestart die => Sys2Proof.Machine.execLamplighterRestart die s
  | .receiveLockAcquired p lane lock => Sys2Proof.Machine.execReceiveLockAcquired p lane lock s
  | .localBankGate c u bank => Sys2Proof.Machine.execLocalBankGate c u bank s
  | .localBankEnable c u bank => Sys2Proof.Machine.execLocalBankEnable c u bank s
  | .llcWayEnable chip way => Sys2Proof.Machine.execLlcWayEnable chip way s
  | .llcWayCleared chip way => Sys2Proof.Machine.execLlcWayCleared chip way s
  | .prefetchFill n => Sys2Proof.Machine.execPrefetchFill n s

end Sys2Proof.Machine
end

