-- ==== Sys2Proof/Machine/Turn.lean ====
section
/-! DEFINITION. Turns: the next scalar instruction of a strand (R18, R20, R82, R462), its next lane instruction (R22, R29–R32, R109, R459,
R461), one cycle of issue of a port (R171, R172, R174), and the order in which agents move. -/

namespace Sys2Proof.Machine

/-! ## The scalar stream -/

/-- Fetches the word at the pc and executes it; a fetch fault is precise, and a word that is no instruction raises Undefined. -/
def State.fetchExec (s : State) : Out :=
  match s.fetch s.me.pc 4 with
  | (s, .fault f e) => .next (s.trapAt f e s.me.pc)
  | (s, .wait) => .next (s.wait .none)
  | (s, .bytes bs) =>
    match decodeScalar (BitVec.ofNat 32 (ofLe bs)) with
    | .ok i => exec i s
    | .error _ => execUndefinedScalarWord (BitVec.ofNat 32 (ofLe bs)) s

/-- The instruction took a precise trap, or waits for the lane instructions in progress before it does. -/
def Strand.trapped (x : Strand) : Bool := x.tr.sup || x.lq.draining

/-- The strand with the turn as if it had a vector: a precise trap that is fatal for want of one (R452) shows as a trap. -/
def State.withVector (s : State) : State :=
  if s.me.tr.tvec = 0 then { s with me := { s.me with tr := { s.me.tr with tvec := 64 } } } else s

/-- The instruction at the boundary takes a precise trap. -/
def State.trapsHere (s : State) : Bool := match s.withVector.fetchExec with | .next u => u.me.trapped | _ => false

/-- The instruction at the boundary, or an engine fault or Starvation where the instruction takes no precise trap (R462). A `push` or `pop` whose
wake-up has come completes before it, if it can (R537). -/
def State.atBoundary (s : State) : Out :=
  match s.dueLast with
  | none => s.fetchExec
  | some v =>
    match s.fetchExec with
    | .next u => if s.trapsHere || (s.me.sch.woken && u.me.pc != s.me.pc) then .next u else .next v
    | o => o

/-- The strand with the turn issues no scalar instruction: it has ended, is held, or waits for the lane stream to stop (R460) or for the
replay list (R458). -/
def Strand.scalarHeld (x : Strand) : Bool := x.sch.retired || x.sch.hold || (x.lq.draining && x.laneBusy) || !x.redo.isEmpty

/-- The turn of a halted strand: its engine faults are delivered (R21, R462), or abandoned where a handler halted (R476). -/
def State.haltedTurn (s : State) : State := if s.me.tr.sup && !s.me.faults.isEmpty then s.abandon else s.dueLast.getD s

/-- The strand waits in a `push` or `pop`, which examines its queue again only when it is woken (R206–R208). -/
def Sched.atQueue (k : Sched) : Bool := match k.wait with | .push _ | .pop _ => true | _ => false

/-- The next scalar instruction of the strand with the turn. A Deadlock that a taper has raised in it is its precise trap (R214, R460).
DEDUCED, unsafe: log 55. -/
def State.scalarTurn (s : State) : Out :=
  if s.me.sch.retired || s.me.sch.hold then .next s
  else match s.dueFirst with
    | some u => .next u
    | none =>
      if s.me.scalarHeld then .next s
      else
        let s : State := { s with me := { s.me with lq := { s.me.lq with draining := false } } }
        match s.me.sch.deadlock with
        | some ea => .next (s.trapAt 0x11 ea s.me.pc)
        | none =>
          if s.me.sch.halted then .next s.haltedTurn
          else if s.me.sch.atQueue then .next (s.dueLast.getD s)
          else s.atBoundary

/-! ## The lane stream -/

/-- Executes a lane word. -/
def State.laneExec (s : State) (w : BitVec 96) : Out :=
  match decodeLane w with
  | .ok i => exec i s
  | .error _ => execUndefinedLaneOpcode w s

/-- The latches as a chain finds them: what earlier chains and strands left in them is lost (R31). DESIGN CHOICE, safe: log 100. -/
def lostLatches (fresh : Nat) : Vector (Vector Word64 96) 4 :=
  Vector.ofFn (fun k : Fin 4 => lanes (fun l => Config.latchValue fresh k.val l.val))

/-- Opens the chain that the next instruction heads (R29, R31, R461). -/
def Strand.openChain (x : Strand) (n fresh : Nat) : Strand :=
  { x with
    lf := { x.lf with x := lostLatches fresh }
    lq := { x.lq with
      chain := some { run := x.run.id, head := x.run.next, last := x.run.next + n - 1, flags := 0, gen := x.lf.gen }
      resume := if x.resumesHere then none else x.lq.resume } }

/-- The instruction or chain that a trap interrupted begins with the generators it had at its head, whatever the handlers since have
drawn (R67). -/
def Strand.headState (x : Strand) : Strand :=
  match x.lq.headGen with
  | some gen => if x.tr.sup then x else { x with lf := { x.lf with gen }, lq := { x.lq with headGen := none } }
  | none => x

/-- A lane access stalls from the fault reply of a scalar access of the strand until the trap is taken (R458). -/
def State.laneFaultHeld (s : State) (ms : List Member) : Bool :=
  ms.any (fun m => m.memory) && (s.access.any (fun a => a.strand == s.me.who.id && a.isScalar && a.isFaulted) ||
    (!s.me.replay.isEmpty && !s.me.tr.sup) || !s.me.failed.isEmpty)

/-- The lane stream begins nothing: it stops for a trap (R459, R460) or waits for the replay list or for the last member of a chain. -/
def Strand.laneHeld (x : Strand) : Bool :=
  x.sch.retired || x.sch.hold || !x.redo.isEmpty || x.lq.draining || x.lq.chain.isSome || x.lq.ops.any (fun o => o.faulted != 0)

/-- A lane instruction outside a chain in progress: a done one is skipped; an illegal chain traps at its head; else it executes once its
registers are delivered. DEDUCED, unsafe: log 23. -/
def State.laneBegin (s : State) (w : BitVec 96) : Out :=
  let ms := s.me.nextChain
  let again : Bool := s.me.resumesHere && decide (1 < ms.length)
  if s.me.nextDone w && !again then .next { s with me := s.me.retireLane 0 }
  else if !(s.me.hazards ms).isEmpty || s.laneFaultHeld ms then .next s
  else
    let s : State := { s with me := s.me.headState }
    if illegalChain ms then .next (s.laneTrap 0x02 0 (s.me.active (wordSel w)))
    else if ms.length ≤ 1 then s.laneExec w
    else ({ s with me := s.me.openChain ms.length s.fresh, fresh := s.fresh + 1 } : State).laneExec w

/-- The next lane instruction of the strand with the turn. -/
def State.laneTurn (s : State) : Out :=
  match s.me.nextWord with
  | none => .next s
  | some w =>
    if s.me.chainOpen then s.laneExec w
    else if s.me.laneHeld then .next s
    else s.laneBegin w

/-! ## One cycle of issue of a port (R171, R172) -/

/-- A turn of a strand that has issued nothing in the cycle. -/
def State.turnOf (s : State) (t : StrandId) (lane : Bool) : State :=
  let s := (s.sched t (fun k => { k with issuedNow := false })).focus t
  match (if lane then s.laneTurn else s.scalarTurn) with
  | .next u => u
  | _ => s

def State.hasIssued (s : State) (t : StrandId) : Bool := match s.strand t with | some x => x.sch.issuedNow | none => false

/-- The strand's instruction of a stream could issue now. -/
def State.couldIssue (s : State) (t : StrandId) (lane : Bool) : Bool := (s.turnOf t lane).hasIssued t

/-- Tries the strands in order until one issues. A strand that cannot issue keeps what its attempt recorded, its wait among it. -/
def State.tryScalar (s : State) : List StrandId → State × Option StrandId
  | [] => (s, none)
  | t :: ts =>
    let u := s.turnOf t false
    if u.hasIssued t then (u, some t) else u.tryScalar ts

/-- The slot of a strand. -/
def State.slotOf (s : State) (t : StrandId) : Option (Fin 4) := (s.strand t).bind (fun x => x.sch.slot)

/-- The issue ends a promotion and the wick count restarts (R174). -/
def State.noteIssue (s : State) (t : StrandId) (lane : Bool) : State :=
  s.sched t (fun k => { k with wick := 0, promoted := false, starved := false, laneEligible := if lane then false else k.laneEligible, issuedNow := true })

/-- The scalar part of a cycle of issue. -/
def State.issueScalarPort (s : State) (c : CoreId) (p : Fin 4) : State × Option StrandId :=
  match s.tryScalar (s.issueOrder c p (s.core c).ports[p].lastScalar) with
  | (u, none) => (u, none)
  | (u, some t) =>
    let core := u.core c
    let last : Fin 4 := (s.slotOf t).getD core.ports[p].lastScalar
    let u := u.setCore c { core with ports := core.ports.set p { core.ports[p] with lastScalar := last } }
    ((u.noteIssue t false).countEvent c.die.val 2, some t)

/-- The strand's next lane instruction heads a chain of two or more members. -/
def State.headsChain (s : State) (t : StrandId) : Bool := match s.strand t with | some x => decide (1 < x.nextChain.length) | none => false

/-- A chain head yields to an eligible strand of equal or higher priority that was eligible in an earlier cycle and heads no chain (R172). -/
def State.yields (s : State) (cands : List StrandId) (t : StrandId) : Bool :=
  s.headsChain t && cands.any (fun u => u != t && !s.headsChain u &&
    (match s.strand u, s.strand t with
     | some y, some x => y.sch.laneEligible && decide (x.priority ≤ y.priority)
     | _, _ => false))

/-- The strand whose lane instruction issues: the continuing chain, else the first of the order that can issue and need not yield. -/
def State.lanePick (s : State) (c : CoreId) (p : Fin 4) : Option StrandId :=
  match s.strands.find? (fun x => x.onPort c p && x.chainOpen) with
  | some x => if s.couldIssue x.who.id true then some x.who.id else none
  | none =>
    let cands := (s.issueOrder c p (s.core c).ports[p].lastLane).filter (fun t => s.couldIssue t true)
    cands.find? (fun t => !s.yields cands t)

/-- The lane part of a cycle of issue: the pipeline begins an instruction once the previous one has finished its occupancy. -/
def State.issueLanePort (s : State) (c : CoreId) (p : Fin 4) : State × Option StrandId :=
  if (s.core c).ports[p].laneFree ≠ 0 then (s, none)
  else match s.lanePick c p with
    | none => (s, none)
    | some t =>
      let u := s.turnOf t true
      let core := u.core c
      let last : Fin 4 := (s.slotOf t).getD core.ports[p].lastLane
      let busy := match (s.strand t).bind (fun x => x.nextWord) with | some w => laneOccupancy w | none => 3
      let u := u.setCore c { core with ports := core.ports.set p { core.ports[p] with lastLane := last, laneFree := busy } }
      ((u.noteIssue t true).countEvent c.die.val 3, some t)

/-- A strand that issued nothing: its wick count rises when it could have (R174), and a wait that R166 names is noted though its turn did
not come. DEDUCED, unsafe: log 53. -/
def State.notePassed (s : State) (t : StrandId) : State :=
  let u := s.turnOf t false
  let scalar := u.hasIssued t
  let waits (k : Sched) : Wait := match u.strand t with
    | some x => (match x.sch.wait with | .load | .counter _ _ => x.sch.wait | _ => k.wait)
    | none => k.wait
  s.sched t (fun k => { k with
    wick := if scalar || s.couldIssue t true then k.wick + 1 else k.wick
    wait := if scalar then k.wait else waits k })

/-- A strand's request for a waiting-table entry that stalls in the cycle joins those of its core (R267). -/
def State.noteStall (s : State) (t : StrandId) (lane : Bool) : State :=
  if ((s.turnOf t lane).core t.core).stalled.any (fun e => e.2 == (t, lane)) then s.setCore t.core ((s.core t.core).stall (t, lane)) else s

/-- The slotted strands of a port whose next lane instruction could issue (R172). -/
def State.laneEligibles (s : State) (c : CoreId) (p : Fin 4) : List StrandId :=
  ((s.strands.filter (fun x => x.onPort c p && x.mayIssueNow)).map (fun x => x.who.id)).filter (fun t => s.couldIssue t true)

/-- One cycle of issue of a port. Each strand's lane eligibility is noted, whatever its scalar stream issued (R172), and the wick counts
that have reached a threshold call for their events (R174). -/
def State.issuePort (s : State) (c : CoreId) (p : Fin 4) : State :=
  let (s, a) := s.issueScalarPort c p
  let eligible := s.laneEligibles c p
  let (s, b) := s.issueLanePort c p
  let slotted := (s.strands.filter (fun x => x.onPort c p && x.mayIssueNow)).map (fun x => x.who.id)
  let s := (slotted.filter (fun t => some t != a)).foldl (fun (s : State) t => s.noteStall t false) s
  let s := (slotted.filter (fun t => some t != b)).foldl (fun (s : State) t => s.noteStall t true) s
  let s := if slotted.any (fun t => (s.core c).stalled.any (fun e => e.2.1 == t)) then s.countEvent c.die.val 5 else s
  let passed := s.strands.filter (fun x =>
    x.onPort c p && !x.sch.retired && !x.sch.hold && !x.sch.parked && some x.who.id != a && some x.who.id != b)
  let s := passed.foldl (fun (s : State) x => s.notePassed x.who.id) s
  let s := s.modifyAll (fun x => x.onPort c p) (fun x => x.withSched (fun k =>
    { k with laneEligible := eligible.contains x.who.id && some x.who.id != b }))
  { s with agenda := (s.strands.filter (fun x => x.onPort c p)).flatMap Strand.wickEvents ++ s.agenda }

/-- The resident index of the scalar instruction that a port would issue; 32 where it issues none. -/
def State.nextIndex (s : State) (c : CoreId) (p : Fin 4) : Nat := match (s.issueScalarPort c p).2 with | some t => t.rs.val | none => 32

/-- The ports of a core whose cycle of issue the agenda names next. -/
def State.portsDue (s : State) (c : CoreId) : List (Fin 4) :=
  (s.agenda.takeWhile (fun a => match a with | .issue d _ => d == c | _ => false)).filterMap (fun a => match a with | .issue _ p => some p | _ => none)

/-- The port that issues first of those whose turn it is on a core: the one with the lowest resident index, so that the requests of one cycle
reach a queue or an engine in the order of R208. -/
def State.firstPort (s : State) (c : CoreId) (p : Fin 4) : Fin 4 :=
  (s.portsDue c).foldl (fun best q => if s.nextIndex c q < s.nextIndex c best then q else best) p

/-- The cycle of issue of a port of a core; the other ports whose cycle is due follow. -/
def State.issueTurn (s : State) (c : CoreId) (p : Fin 4) : State :=
  let q := s.firstPort c p
  ({ s with agenda := if q = p then s.agenda else s.agenda.replace (.issue c q) (.issue c p) } : State).issuePort c q

/-! ## The turns of the agenda -/

/-- Another strand of the strand's port has a chain in execution (R31). -/
def State.portBusy (s : State) (t : StrandId) : Bool :=
  s.strands.any (fun y => !y.isId t && y.onPort t.core (Fin.ofNat 4 t.rs.val) && y.chainOpen)

/-- The turn of a strand. One without a slot issues nothing (R164), but for the members of a chain that it began in its slot, which issue as one
unit; while the chain of another strand of the port executes, no lane instruction issues there (R31). DESIGN CHOICE, safe: log 74. -/
def State.strandTurn (s : State) (t : StrandId) (lane : Bool) : Out :=
  match s.strand t with
  | none => if s.liveDies.contains t.core.die then .next s else .fault .noStrand
  | some x =>
    if !(x.mayIssueNow || (lane && x.chainOpen)) || (lane && s.portBusy t) then .next s
    else if lane then (s.focus t).laneTurn else (s.focus t).scalarTurn

/-- One entry of the agenda. -/
def State.act (s : State) (a : Action) : Out :=
  match a with
  | .event i => exec i s
  | .scalar t => s.strandTurn t false
  | .lane t => s.strandTurn t true
  | .issue c p => .next (s.issueTurn c p)

/-! ## Where the agenda names no agent

The spec gives no order among the agents. With an empty agenda a round begins, in which
the events and port cycles that may have an effect take a turn each. -/

/-- The event that serves an access in flight. -/
def State.accessEvent (s : State) (a : Access) : List Instr :=
  match a.status with
  | .issued =>
    (match a.kind with
     | .load | .store => if a.space = 0 then [.homeAccess a.n] else [.peerGAccess a.n]
     | .atomic _ _ | .cas =>
       if a.space ≠ 0 then [.bankAluAtomic a.n]
       else if aperture a.va then [.homeAccess a.n]
       else if Pol.scope a.pol < 3 then [.gauAtomic a.n] else [.homeAtomic a.n]
     | .rlock | .wlock | .runlock | .wunlock => [.homeAtomic a.n]
     | .prefetch _ => [.prefetchFill a.n]
     | .operation => if a.entry then [.shootdown a.n] else [])
  | .walking => [.tableWalk a.n]
  | .reviving => [.pageRevival a.n]
  | .done _ | .faulted _ =>
    (match a.origin with
     | .scalar _ _ => [.scalarLoadReply a.n, .scalarFaultReply a.strand]
     | .lane op _ => [.laneLoadReply op (s.replyFrom a)])
  | _ => []

/-- The event that carries a near-memory command on. -/
def State.nearEvents (s : State) (c : CoreId) (k : NearCmd) : List Instr :=
  match k.stage with
  | .faulted => []
  | .queued | .checking => [.nearPhase1 c k.n]
  | .agreed => [.nearPhase2 c k.n]
  | .running =>
    if k.op == .nred then
      (if s.ddb.chips.all k.counted.contains then s.ddb.chips.take 1 else s.ddb.chips.filter (fun m => !k.counted.contains m)).map
        (fun m => Instr.nredReduce c k.n m)
    else [.nearPhase2 c k.n]

/-- The events of the commands that a core's engines hold. -/
def State.coreEvents (s : State) (c : CoreId) (k : Core) : List Instr :=
  k.copies.map (fun (q : CopyCmd) => if q.kind = 2 then Instr.lcopyOperation c q.n else Instr.copyOperation c q.n) ++
  (match k.dme.queue with
   | q :: _ => [if q.op == .mloop then Instr.mloopStep c else Instr.dmeCommandExecute c]
   | [] => []) ++
  (if k.dme.waiting.isEmpty then [] else [Instr.dmeOwnershipPass c]) ++
  k.analog.map (fun (q : AnaCmd) => match q.op with
    | .xprog => Instr.xprogExecute c q.arr
    | .xmvm => Instr.xmvmExecute c q.arr
    | .xtrim => Instr.xtrimExecute c q.arr
    | .xcal => Instr.xcalExecute c q.arr) ++
  k.near.flatMap (s.nearEvents c)

/-- The events of a strand: its complete operations retire, and it retires. -/
def Strand.ownEvents (x : Strand) : List Instr :=
  (x.ops.filter (fun o => o.done)).map (fun (o : EngineOp) => Instr.operationRetire x.who.id o.cls) ++
  (if x.sch.halted && !x.sch.retired then [Instr.strandRetire x.who.id] else [])

/-- The events of a gang: a drain, and retirement. -/
def State.gangEvents (s : State) (g : Gang) : List Instr :=
  (if g.draining then [Instr.preEmptionDrain g.id] else []) ++
  (if (s.strands.filter (fun x => x.who.gang == g.id)).all (fun x => x.sch.retired) then [Instr.gangRetire g.id] else [])

/-- The events of launch: an entry is taken in, and each live die's processor looks for work. -/
def State.launchEvents (s : State) : List Instr :=
  (if s.launchList.isSome then [Instr.launchIntake] else []) ++
  (if s.fields.isEmpty then [] else s.liveDies.map Instr.gangClaim ++ s.liveDies.map Instr.concurrentAdmission)

/-- A port comes before another: cores in order of their position, which is the order of peer indices in a gang (R150). -/
def portBefore (e f : CoreId × Fin 4) : Bool :=
  let at_ (e : CoreId × Fin 4) : Nat := ((e.1.die.val * 4 + e.1.y.val) * 8 + e.1.x.val) * 4 + e.2.val
  decide (at_ e < at_ f)

/-- Ports in that order. -/
def insertPort (e : CoreId × Fin 4) : List (CoreId × Fin 4) → List (CoreId × Fin 4)
  | [] => [e]
  | f :: fs => if portBefore e f then e :: f :: fs else f :: insertPort e fs

/-- The ports that have resident strands, and port 0 of each core with a crew, whose cycle is the core's (R213), each once. -/
def State.busyPorts (s : State) : List (CoreId × Fin 4) :=
  (((s.strands.map (fun x => (x.who.id.core, Fin.ofNat 4 x.who.id.rs.val))) ++ s.crews.map (fun k => (k.core, (0 : Fin 4)))).eraseDups).foldl
    (fun l e => insertPort e l) []

/-- The events of the host's commands: a mailbox command that runs (R500), and the entry at the head of the ring (R501). -/
def State.hostEvents (s : State) : List Instr :=
  (if s.sconce.status ≠ 0 then [] else
    match s.sconce.op with | 1 => [.imageChunk] | 2 => [.imageDone] | 3 => [.leaveOut] | 4 => [.keyslot] | _ => []) ++
  (match s.ringHead with
   | some (1, _, _, _) => [.preEmpt]
   | some (2, _, _, _) => [.endField]
   | some (3, _, _, _) => [.conditionalLeaf]
   | some (4, _, _, _) => [.shootDown]
   | some _ => [.unknownHostOp]
   | none => [])

/-- The events and cycles of a round. DESIGN CHOICE, unsafe: log 1. -/
def State.candidates (s : State) : List Instr :=
  if s.sconce.stage = 0 then [.sconceBoot Config.bootFlash]
  else if !s.ddb.ready then s.hostEvents ++ [.ddbPublish []]
  else
    s.hostEvents ++
    s.access.flatMap s.accessEvent ++ s.cores.flatMap (fun e => s.coreEvents e.1 e.2) ++ s.strands.flatMap Strand.ownEvents ++
    s.gangs.flatMap s.gangEvents ++ s.launchEvents ++ s.busyPorts.map (fun p => Instr.portCycle p.1 p.2)

/-- What a round begins with: requests of other devices that wait are tried (R511), and a cycle is counted on every die that is not a compute die
(R533). DESIGN CHOICE, unsafe: log 71. -/
def State.roundStart (s : State) : State :=
  ((List.range 29).filter (fun e => decide (8 ≤ e) && s.liveEndpoint e)).foldl (fun (s : State) e => s.countEvent e 1) s.serveIncoming

/-- The step with an empty agenda begins a round: each of these has one turn in it. DESIGN CHOICE, unsafe: log 1. -/
def State.rotate (s : State) : Out := .next { s.roundStart with agenda := s.roundStart.candidates.map .event }

end Sys2Proof.Machine
end

