-- ==== Sys2Proof/Machine/Load.lean ====
section
/-! DEFINITION. A program placed from outside the machine: a resident strand whose next instruction is a given word. It stands for the load
of a field's code and the launch of its first gang (R153–R163, R504–R506). -/

namespace Sys2Proof.Machine

/-- A field of one strand of a role, class 2, with buffers of 64 KiB. -/
def loadedField (role : BitVec 2) : Field :=
  { block := 0, asid := 0, cls := 2, cosched := false, lane0 := false, prio := 0, entry := 0, lcb := 0, args := 0, fx := 1, fy := 1
    lw := 0, lh := 0, nstr := 0, roles := role.setWidth 32, aff := 0, g := 64, w := 64, a := 64, c := 64, tvec := 0x10000
    window := false, claimed := true, known := List.finRange 8, go := true, ended := none, saved := [] }

/-- The role that may execute a scalar instruction (R152). -/
def roleFor (i : Option Instr) : BitVec 2 :=
  match i with
  | some (.cpy _ _ _ _) | some (.cpyg _ _ _) => 1
  | some (.mlds _ _) | some .mswap | some (.mloop _ _) | some (.cstore _ _ _) | some (.cclr _ _) | some (.xprog _ _) | some (.xmvm _ _)
  | some (.xtrim _) | some (.xcal _ _ _) => 2
  | _ => 3

/-- The one strand of a field placed on core (0, 0) of die 0, in slot 0 of its port, has the turn. -/
def State.loadStrand (s : State) (role : BitVec 2) : State :=
  let f := loadedField role
  let t := s.placeGang f 0 0 (0, 0)
  let s : State := { t with fields := s.fields ++ [f] }
  match s.rest.getLast? with
  | some x => { s with me := x.withSched (fun k => { k with slot := some 0 }), rest := s.rest.dropLast }
  | none => s

/-- The strand with the turn, made ready to execute its next instruction at once. -/
def Strand.cleared (x : Strand) : Strand :=
  { x with lq := { x.lq with ops := [], chain := none, draining := false }, faults := [], replay := [], behind := [], failed := [], redo := []
           sch := { x.sch with halted := false, retired := false, hold := false, starving := false, wait := .none } }

/-- The scalar word at the pc, in the core's fetch copy of its granule (R20). -/
def State.placeScalar (s : State) (w : Word32) : State :=
  let x := s.me
  let g := x.pc.toNat / 256
  let c := s.core x.who.id.core
  let old := match c.fetch.find? (fun l => l.granule == g && l.asid == x.sy.asid) with | some l => l.data | none => zeroGranule
  let line : FetchLine := ⟨g, x.sy.asid, patch old (x.pc.toNat % 256) (leBytes 4 w.toNat), true, false⟩
  { s.setCore x.who.id.core { c with fetch := line :: c.fetch } with agenda := [.scalar x.who.id] }

/-- The lane word as a run of one instruction at the head of the lane queue (R22–R24), with every lane of em active. -/
def State.placeLane (s : State) (w : BitVec 96) : State :=
  let x := s.me
  let run : Run :=
    { id := s.nextId, start := x.sy.lcb, words := [w], next := 0, k := [0, 0, 0, 0], em := x.em, pol := (lanePolicy w).toList.map (fun r => (r, 0))
      done := [], marks := (laneScalar w).toList.map (fun r => (0, r)), after := 0 }
  { s with me := { x with lq := { x.lq with runs := [run] }, pend := x.pend ++ (laneScalar w).toList.map (fun r => (r, Source.run s.nextId)) }
           nextId := s.nextId + 1, agenda := [.lane x.who.id] }

/-- One bank ALU at the first piece of page 0. -/
def loadedBank : Bank := Bank.fresh { chip := 0, page := 0, frame := 0, index := 0 }

/-- The instruction of a candle program, as the next of a wave of one bank (R411, R412). -/
def State.placeCandle (s : State) (i : Instr) : State :=
  { s with wave := some { chip := 0, channel := 0, asid := s.me.sy.asid, k := List.replicate 64 0, pass := 0, banks := [loadedBank], flags := 0 }
           agenda := [.event i] }

/-- A strand is there to execute the word. -/
def State.loaded (s : State) (role : BitVec 2) : State :=
  let s := if s.me.live then s else s.loadStrand role
  { s with me := s.me.cleared }

/-- The instruction of a word, placed where the next step finds it. -/
def State.place (s : State) (nbits w : Nat) : State :=
  if nbits ≤ 32 then (s.loaded (roleFor (decodeTableWord 32 w))).placeScalar (BitVec.ofNat 32 w)
  else
    let s := s.loaded 3
    match decodeLane (BitVec.ofNat 96 w), decodeCandleOnly (BitVec.ofNat 96 w) with
    | .error _, .ok i => s.placeCandle i
    | _, _ => s.placeLane (BitVec.ofNat 96 w)

end Sys2Proof.Machine
end

