-- ==== Sys2Proof/Machine/Step.lean ====
section
/-! DEFINITION. One step of the device: the agent whose turn it is acts (an event, the next instruction of a strand, a port's cycle of
issue). -/

namespace Sys2Proof.Machine

/-- One step. The agenda says which agent moves; with an empty agenda a round of turns begins. -/
def step (s : State) : Host.Outcome State Fault Refusal :=
  match s.agenda with
  | a :: rest => ({ s with agenda := rest } : State).act a
  | [] => s.rotate

/-- The state with an instruction stored where `step` finds its next instruction. DESIGN CHOICE, unsafe: log 3. -/
def State.withFetchWord (s : State) (nbits w : Nat) : State := s.place nbits w

end Sys2Proof.Machine
end

