-- ==== Sys2Proof/Safety.lean ====
section
/-! DEFINITION. What counts as a safe state and a safe step, and the terms in which statements say what an instruction gives and what it
leaves alone. -/

namespace Sys2Proof.Safety

open Sys2Proof.Machine

/-! ## Safe states and steps -/

/-- The regions of a crew are in canonical form. -/
def regionsWf (c : Crew) : Bool := c.mg.wf && c.mw.wf && c.ma.wf && c.mc.wf

/-- Every byte memory of the state is in canonical form: device memory, host memory, the regions of resident and of saved crews. -/
def memoryWf (s : State) : Bool :=
  s.dram.wf && s.host.mem.wf && s.crews.all regionsWf && s.fields.all (fun f => f.saved.all (fun k => k.crews.all regionsWf))

/-- The step ends neither in a fault nor in a refusal. -/
def SafeStep (s : State) : Prop := ∃ t, step s = .next t

/-! ## What an instruction gives -/

/-- The instruction completes in a state that satisfies P. -/
def Gives (i : Instr) (s : State) (P : State → Prop) : Prop := ∃ t, exec i s = .next t ∧ P t

/-! ## What an instruction leaves alone -/

/-- Every byte of device memory, of host memory and of the local regions reads as before. -/
def SameBytes (s t : State) : Prop :=
  (∀ a, t.dram.read a = s.dram.read a) ∧ (∀ a, t.host.mem.read a = s.host.mem.read a) ∧
  (∀ g p, (t.crewOf g p).map (fun c => (c.mg, c.mw, c.ma, c.mc)) = (s.crewOf g p).map (fun c => (c.mg, c.mw, c.ma, c.mc)))

/-- The scheduling state of a strand whose instruction retired: it waits for nothing and has issued. -/
def moved (k : Sched) : Sched := { k with wait := .none, woken := false, blocked := 0, issuedNow := true }

/-- The instruction retired and changed, of the strand with the turn, its pc, its scalar register d and nothing else but what R311 notes at
a write of em0–em2; outside the strand, nothing; no byte of memory. -/
def OnlyReg (s t : State) (d : Reg) : Prop :=
  t = { s with me := { s.me with s := t.me.s, pc := t.me.pc, laneBarrier := t.me.laneBarrier, sch := moved s.me.sch } } ∧
  t.me.laneBarrier = (if d = 56 ∨ d = 57 ∨ d = 58 then s.nextId else s.me.laneBarrier) ∧
  (∀ r, r ≠ d → t.reg r = s.reg r) ∧ SameBytes s t

/-- The instruction retired and changed nothing but the pc. -/
def OnlyPc (s t : State) : Prop :=
  t = { s with me := { s.me with pc := t.me.pc, sch := moved s.me.sch } } ∧ SameBytes s t

/-- The instruction writes the value to its destination (discarded by s0, R12), moves to the next word and changes nothing else. -/
def Computes (s : State) (i : Instr) (d : Reg) (v : Word64) : Prop :=
  Gives i s (fun t => t.reg d = (if d = 0 then 0 else v) ∧ t.me.pc = s.me.pc + 4 ∧ OnlyReg s t d)

/-- No register of the list is pending (R25). -/
abbrev Ready (s : State) (rs : List Reg) : Prop := ∀ r ∈ rs, s.me.isPending r = false

/-! ## Taking a trap of scalar origin (R451) -/

/-- No lane instruction is in progress, the strand is not in its handler, and it has a vector: a trap is taken at once and is not fatal. -/
abbrev CanTrap (s : State) : Prop := s.me.laneBusy = false ∧ s.me.tr.sup = false ∧ s.me.tr.tvec ≠ 0

/-- Of the cores, only the strand's own stalled requests went: it asks neither for a waiting-table entry nor for the matrix engine. -/
def Unstalled (s t : State) : Prop :=
  let id := s.me.who.id
  let k := s.core id.core
  t.core id.core = { k with stalled := k.stalled.filter (fun e => e.2.1 != id), dme := k.dme.leave id } ∧ (∀ c, c ≠ id.core → t.core c = s.core c)

/-- The state after trap entry of scalar origin: what R451 writes, what R460 sets aside, the stalled requests given up, and nothing else. -/
def Trapped (s t : State) (cause : BitVec 8) (addr resume : Word64) : Prop :=
  t.me.tr = { s.me.tr with sup := true, lane := false, held := s.me.lq.runs.length, ecause := cause, eaddr := addr, espc := resume
                           eem := #v[s.me.s[56], s.me.s[57], s.me.s[58]], emask := 0, edone := 0 } ∧
  t.me.pc = s.me.tr.tvec + 0x40 ∧
  (t.me.s[56] = 0xFFFFFFFF#64 ∧ t.me.s[57] = 0xFFFFFFFF#64 ∧ t.me.s[58] = 0xFFFFFFFF#64) ∧
  (∀ r : Reg, r ≠ 56 → r ≠ 57 → r ≠ 58 → t.reg r = s.reg r) ∧
  t.me.sch.paused = 0 ∧ t.me.lq.runs = [] ∧ t.me.lq.held = s.me.lq.runs ∧
  (∀ p, p ∈ t.me.pend ↔ p ∈ s.me.pend ∧ ∃ n, p.2 = .reply n) ∧ (∀ p, p ∈ t.me.asidePend ↔ p ∈ s.me.pend ∧ ∃ n, p.2 = .run n) ∧
  t = { s with me := { s.me with tr := t.me.tr, s := t.me.s, pc := t.me.pc, pend := t.me.pend, asidePend := t.me.asidePend
                                 lq := { s.me.lq with runs := [], held := s.me.lq.runs, draining := false, chain := none }
                                 sch := { moved s.me.sch with paused := 0, deadlock := none, parked := false, readyAt := if s.me.sch.parked then s.clock else s.me.sch.readyAt } }
               cores := t.cores } ∧
  Unstalled s t ∧ SameBytes s t

/-- The instruction takes a precise trap of a cause: the instruction itself is the resume point. -/
def Traps (s : State) (i : Instr) (cause : BitVec 8) (addr : Word64) : Prop := Gives i s (fun t => Trapped s t cause addr s.me.pc)

/-- The gang of the strand with the turn stopped (R452, R476): its strands issue nothing more but the rest of an open chain, it ends, and the host
is interrupted, behind the fatal record where that waits for the host. -/
def GangStopped (s t : State) : Prop :=
  let g := s.me.who.gang
  (∀ x ∈ t.strands, x.who.gang = g → x.sch.halted ∧ x.sch.retired ∧ x.sch.hold ∧ (x.chainOpen = false → x.lq.runs = [])) ∧
  (∀ k ∈ t.gangs, k.id = g → k.ending) ∧
  ((s.gangOf g).isSome → 0 ∈ t.host.raised ∨ ∃ k ∈ t.gangs, k.id = g ∧ k.fatal.isSome) ∧
  (s.controlBlock s.me = 0 → 0 ∈ t.host.raised)

/-! ## Enqueuing a run (R22–R24) -/

/-- The run that an `lrun` at a start enqueues. -/
def RunEnqueued (u t : State) (k : Reg) (start : Word64) (words : List (BitVec 96)) : Prop :=
  (∃ r : Run, t.me.lq.runs = u.me.lq.runs ++ [r] ∧ r.start = start ∧ r.words = words ∧ r.next = 0 ∧ r.em = u.me.em ∧ r.done = [] ∧
    r.k = [u.reg k, u.reg (k + 1), u.reg (k + 2), u.reg (k + 3)] ∧
    (∀ p, p ∈ t.me.pend ↔ p ∈ u.me.pend ∨ (p.2 = .run r.id ∧ ∃ w ∈ words, laneScalar w = some p.1))) ∧
  t.me.pc = u.me.pc + 4 ∧
  t = { u with me := { u.me with lq := { u.me.lq with runs := t.me.lq.runs }, pend := t.me.pend, pc := t.me.pc, sch := moved u.me.sch }
               nextId := u.nextId + 1 } ∧ SameBytes u t

/-! ## Scalar memory accesses -/

/-- The access that a scalar instruction of the strand with the turn issues. -/
def scalarAccess (s : State) (d : Reg) (sign entry : Bool) (kind : Kind) (space : BitVec 3) (va : Word64) (size : Nat) (data cmp : Word64)
    (pol : Word32) : Access :=
  { n := s.nextId, run := 0, after := 0, sent := false, strand := s.me.who.id, gang := s.me.who.gang, origin := .scalar d sign, entry, kind, space
    va, size, asid := s.me.sy.asid, sup := s.me.tr.sup, data, cmp, pol, line := none, status := .issued }

/-- An access but for what the L1 notes with it: whether it has taken a store's bytes, and the fill on its way. -/
def bare (a : Access) : Access := { a with sent := false, line := none }

/-- The instruction issued an access and moved on; a register that waits for its data is pending; a return-free atomic is an operation of
the reduce counter; the core's L1 takes the bytes of a relaxed store that nothing holds back (R241); of a core nothing else changes but its list of
stalled requests. -/
def Issues (s t : State) (x : Access) (mark : Option Reg) : Prop :=
  let u := (s.addAccess x).sendStore s.me x
  t.access = u.access ∧ t.access.map bare = s.access.map bare ++ [bare x] ∧ t.me.pc = s.me.pc + 4 ∧
  t.me.pend = s.me.pend ++ (match mark with | some d => if d = 0 then [] else [(d, .reply s.nextId)] | none => []) ∧
  t.me.ops = s.me.ops ++ (if x.kind.reduces then [{ n := s.nextId, cls := 7, done := false, flags := 0 }] else []) ∧
  t = { s with me := { s.me with pend := t.me.pend, ops := t.me.ops, pc := t.me.pc, sch := moved s.me.sch }
               access := t.access, nextId := s.nextId + 1, cores := t.cores } ∧
  (∀ c, { t.core c with stalled := (s.core c).stalled } = u.core c) ∧ (x.kind ≠ .store → ∀ c, u.core c = s.core c) ∧ SameBytes s t

/-- The accesses of a strand that wait to be performed again, or for a fatal trap. -/
def setAside (x : Strand) : List Access := x.replay ++ x.behind ++ x.failed

/-- The numbers of the accesses in flight and of those set aside, of resident and of saved strands, are below the next number. -/
abbrev Numbered (s : State) : Prop :=
  (∀ a ∈ s.access, a.n < s.nextId) ∧ (∀ x ∈ s.me :: s.rest, ∀ a ∈ setAside x, a.n < s.nextId) ∧
  (∀ f ∈ s.fields, ∀ k ∈ f.saved, (∀ a ∈ k.access, a.n < s.nextId) ∧ ∀ x ∈ k.strands, ∀ a ∈ setAside x, a.n < s.nextId)

/-- A global address at which a scalar access of n bytes raises no trap, for a strand that may issue one. -/
abbrev GlobalReady (s : State) (ea : Word64) (n : Nat) : Prop := canonical ea ∧ ea.toNat % n = 0 ∧ s.mayIssue

/-! ## Queues and crew locks -/

/-- The local regions of every crew but one read as before. -/
def OtherCrews (s t : State) (g : GangId) (peer : Nat) : Prop :=
  ∀ g' p, ¬ (g' = g ∧ p = peer) → (t.crewOf g' p).map (fun c => (c.mg, c.mw, c.ma, c.mc)) = (s.crewOf g' p).map (fun c => (c.mg, c.mw, c.ma, c.mc))

/-- Of all local regions only the G region of one crew changed, which is now m. No other memory changed where the gang atomic unit of the
die holds no line that a release would write back. -/
def OnlyG (s t : State) (g : GangId) (peer : Nat) (c : Crew) (m : Mem) : Prop :=
  (∃ c', t.crewOf g peer = some c' ∧ c'.mg = m ∧ c'.mw = c.mw ∧ c'.ma = c.ma ∧ c'.mc = c.mc ∧ c'.qbase = c.qbase) ∧ OtherCrews s t g peer ∧
  (s.gauOf s.me.who.id.core.die = [] → t.dram = s.dram ∧ t.host = s.host)

/-- The queue that a queue instruction names (R202, R204): the peer, its crew, and a descriptor inside its G region. -/
abbrev QueueAt (s : State) (b : Reg) (own : Bool) (q : Fin 32) (peer : Nat) (c : Crew) : Prop :=
  (own → b = 0) ∧ peer = (if own then s.me.who.peer else (s.reg b).toNat % 32) ∧ peer < s.me.who.cores ∧
  s.crewOf s.me.who.gang peer = some c ∧ c.descriptor q.val + 32 ≤ c.g * 1024

/-- The 32-bit word at a G offset. -/
def wordAt (m : Mem) (off : Nat) : Nat := ofLe (m.bytes off 4)

/-- A descriptor as a queue of the machine has it: counts within its slots, and its region apart from the descriptor. -/
abbrev SaneDesc (d : Nat) (k : Desc) : Prop :=
  2 ≤ k.slots ∧ k.slots ≤ 64 ∧ 4 ≤ k.size ∧ k.head < k.slots ∧ k.tail < k.slots ∧ k.fill + k.allowance = k.slots ∧
  (k.base + (k.slots + 1) * k.size ≤ d ∨ d + 32 ≤ k.base)

/-! ## Engine commands (R333, R337) -/

/-- A command was accepted as an operation of a counter class: its core is now k, and nothing else but the strand's position changed. -/
def Accepts (s t : State) (cls : Fin 8) (k : Core) : Prop :=
  t.me.ops = s.me.ops ++ [{ n := s.nextId, cls, done := false, flags := 0 }] ∧ t.me.pc = s.me.pc + 4 ∧
  t = { s with me := { s.me with ops := t.me.ops, pend := t.me.pend, pc := t.me.pc, sch := moved s.me.sch }, cores := t.cores, nextId := s.nextId + 1 } ∧
  (∀ r, t.me.isPending r = false → s.me.isPending r = false) ∧
  t.core s.me.who.id.core = k ∧ (∀ c, c ≠ s.me.who.id.core → t.core c = s.core c) ∧ SameBytes s t

/-- The crew may offer a matrix command: it owns the engine, and no command of another crew waits, or this is the command that made its crew
the owner; or nobody owns the engine and nobody waits (R363). -/
abbrev MayOwn (s : State) : Prop :=
  let d := (s.core s.me.who.id.core).dme
  (d.owner = some s.me.crew ∧ (d.waiting = [] ∨ d.granted = some s.me.who.id)) ∨ (d.owner = none ∧ d.waiting = [])

/-- The core after a matrix command was accepted. -/
def withMatrix (s : State) (op : DmeOp) (lay : BitVec 3) (regs : List Word64) (pol : Word32) : Core :=
  let k := s.core s.me.who.id.core
  { k with dme := { k.dme.leave s.me.who.id with
      owner := some s.me.crew
      queue := k.dme.queue ++ [{ n := s.nextId, strand := s.me.who.id, gang := s.me.who.gang, peer := s.me.who.peer, op, lay, regs, pol
                                 asid := s.me.sy.asid, sup := s.me.tr.sup, step := 0, state := .queued, begun := false }] } }

/-- The core after an analog command was accepted. -/
def withAnalog (s : State) (op : AnaOp) (arr : Fin 4) (d : Reg) (regs : List Word64) : Core :=
  let k := s.core s.me.who.id.core
  { k with analog := queueAnalog k.analog { n := s.nextId, strand := s.me.who.id, gang := s.me.who.gang, peer := s.me.who.peer, op, arr, d, regs
                                            sup := s.me.tr.sup, row := 0, state := .queued } }

/-- The core after a near-memory command was accepted. -/
def withNear (s : State) (op : NearOp) (regs : List Word64) (pol : Word32) : Core :=
  let k := s.core s.me.who.id.core
  { k with near := k.near ++ [s.nearCmd op regs pol] }

/-- A policy word that an engine command may carry: well formed and relaxed (R334). -/
abbrev RelaxedWord (p : Word32) : Prop := Pol.ok p ∧ Pol.order p = 0

/-! ## Lane instructions -/

/-- The lane instruction may be executed outside a chain: its encoding is legal, and it touches no tagged register that it may not touch. -/
abbrev LaneReady (s : State) (i : Instr) : Prop := i.wellFormed ∧ s.me.lf.badRead i = false ∧ s.me.lf.badWrite i = false ∧ s.me.lq.chain = none

/-- The lane program counter passed the instruction; of the strand nothing changed but the lane file, FLAGS, a scalar result and the marks that
the instruction had set; outside the strand, nothing; no byte of memory. -/
def LanePassed (s t : State) : Prop :=
  t = { s with me := { s.me with lf := t.me.lf, s := t.me.s, laneBarrier := t.me.laneBarrier, pend := t.me.pend
                                 sy := { s.me.sy with flags := t.me.sy.flags }, lq := { s.me.lq with runs := t.me.lq.runs }
                                 sch := { s.me.sch with issuedNow := true } } } ∧
  (∀ r ∈ t.me.lq.runs, ∃ r₀ ∈ s.me.lq.runs, r.id = r₀.id ∧ r.words = r₀.words ∧ r.k = r₀.k ∧ r.em = r₀.em ∧
    r.next = r₀.next + (if r₀.id = s.me.run.id then 1 else 0)) ∧
  (∀ r ∈ s.me.lq.runs, r.id ≠ s.me.run.id → r.next < r.words.length → r ∈ t.me.lq.runs) ∧
  (∀ p ∈ t.me.pend, p ∈ s.me.pend) ∧ (∀ p ∈ s.me.pend, (∃ n, p.2 = .reply n) → p ∈ t.me.pend) ∧ SameBytes s t

/-- Of vector registers, accumulators and latches, only the destination changed, and of it only the lanes of a mask, which hold the images;
a pair holds the low and the high half of a lane's image (R14, R109). -/
def Wrote (old new : LaneFile) (dst : Opnd) (wide : Bool) (m : Mask) (img : Lane → Nat) : Prop :=
  (∀ (n : Fin 128) (l : Lane), new.v[n][l] =
    if m.getLsbD l.val ∧ dst = .v n then BitVec.ofNat 32 (img l)
    else if m.getLsbD l.val ∧ wide ∧ dst = .v (n - 1) then BitVec.ofNat 32 (img l / 2 ^ 32) else old.v[n][l]) ∧
  (∀ (n : Fin 32) (l : Lane), new.a[n][l] = if m.getLsbD l.val ∧ dst = .acc n then BitVec.ofNat 64 (img l) else old.a[n][l]) ∧
  (∀ (n : Fin 4) (l : Lane), new.x[n][l] = if m.getLsbD l.val ∧ dst = .x n then BitVec.ofNat 64 (img l) else old.x[n][l])

/-- FLAGS gained exactly the flags that the lanes of the instruction raised (R74). -/
def Raised (s t : State) (m : Mask) (fl : Lane → Arith.Flags) : Prop :=
  ∀ k, t.me.sy.flags.getLsbD k = true ↔ s.me.sy.flags.getLsbD k ∨ ∃ l : Lane, m.getLsbD l.val ∧ (fl l).getLsbD k

/-- The generators of the lanes of the instruction took n draws, when its rounding is stochastic (R65). -/
def Drew (s t : State) (f : LaneFields) (n : Nat) : Prop :=
  ∀ l : Lane, t.me.lf.gen[l] =
    if f.sr ∧ (s.me.todo f.sel).getLsbD l.val then (List.range n).foldl (fun g _ => xorshift g) s.me.lf.gen[l] else s.me.lf.gen[l]

/-- The mask registers and the tags stayed. -/
def KeptMasks (s t : State) : Prop := t.me.lf.m = s.me.lf.m ∧ t.me.lf.tag = s.me.lf.tag

/-- No scalar register changed. -/
def KeptScalars (s t : State) : Prop := t.me.s = s.me.s ∧ t.me.laneBarrier = s.me.laneBarrier

/-- The lane instruction writes the lanes' images to its destination, raises their flags, takes its draws and passes, changing nothing else. -/
def LaneGives (s : State) (i : Instr) (f : LaneFields) (wide : Bool) (draws : Nat) (r : Lane → Arith.Res) : Prop :=
  Gives i s (fun t => Wrote s.me.lf t.me.lf f.dst wide (s.me.writeMask f f.dst) (fun l => (r l).1) ∧ Raised s t (s.me.todo f.sel) (fun l => (r l).2) ∧
    Drew s t f draws ∧ KeptMasks s t ∧ KeptScalars s t ∧ LanePassed s t)

/-- The scalar result of a lane instruction went to s(sdx), or nowhere where every lane was already done (R110). -/
def Delivered (s t : State) (f : LaneFields) (v : Word64) : Prop :=
  ∀ r, t.reg r = if f.wb = false ∧ r = f.sdx ∧ r ≠ 0 then v else s.reg r

/-- An element operation with the type of its operands (R46). -/
def eltRes (t : Ty) (r : Arith.Res) : Arith.Res := (imageOf t r.1, r.2)

/-- Two 16-bit results side by side (R111). -/
def packedRes (lo hi : Arith.Res) : Arith.Res := (lo.1 % 65536 + 65536 * (hi.1 % 65536), lo.2 ||| hi.2)

/-- Operand C of an instruction whose W2 may be the immediate. -/
def operandC (f : LaneFields) : Opnd := if f.usesImm then .zero else f.c.getD .zero

/-- What lane n of a list of lanes holds; 0 beyond the lanes. -/
def atLane (g : Lane → Nat) (n : Nat) : Nat := if h : n < 96 then g ⟨n, h⟩ else 0

/-- A lane trap: the state is one of trap entry of lane origin (R114, R451, R459): the faulting instruction's number and lanes are saved, the
handler runs in lanes of EMASK, the generators are those of the instruction's head (R67), and nothing outside the strand changes. -/
def LaneTrapped (s t : State) (cause : BitVec 8) (addr : Word64) (emask : Mask) : Prop :=
  t.me.tr.sup = true ∧ t.me.tr.lane = true ∧ t.me.tr.ecause = cause ∧ t.me.tr.eaddr = addr ∧ t.me.tr.espc = s.me.pc ∧
  t.me.tr.elpc = s.me.run.start + BitVec.ofNat 64 (12 * s.me.run.next) ∧ t.me.tr.emask = emask ∧
  t.me.tr.edone = s.me.run.doneAt s.me.run.next &&& s.me.run.em ∧ t.me.tr.eem = #v[s.me.s[56], s.me.s[57], s.me.s[58]] ∧
  t.me.tr.held = s.me.lq.runs.length ∧ t.me.pc = s.me.tr.tvec + 0x40 ∧ t.me.em = emask ∧
  (∀ r : Reg, r ≠ 56 → r ≠ 57 → r ≠ 58 → t.reg r = s.reg r) ∧ t.me.lf = { s.me.lf with gen := s.me.lq.headGen.getD s.me.lf.gen } ∧ t.me.lq.runs = [] ∧
  t.me.lq.held.map (fun r => (r.id, r.words)) = s.me.lq.runs.map (fun r => (r.id, r.words)) ∧
  t.me.sy = s.me.sy ∧ t.access = s.access ∧ t.dram = s.dram ∧ t.host = s.host ∧ t.crews = s.crews

/-- A lane instruction at the head of the lane stream raises a precise lane trap when no lane instruction is in progress and the strand's gang does not
end. -/
abbrev CanLaneTrap (s : State) : Prop :=
  s.me.laneBusy = false ∧ s.me.tr.sup = false ∧ s.me.tr.tvec ≠ 0 ∧ s.me.sch.wait = .none ∧ s.me.sch.retired = false ∧
  s.crews.map (fun c => c.leave s.me.who.id) = s.crews

def LaneTraps (s : State) (i : Instr) (cause : BitVec 8) (addr : Word64) (emask : Mask) : Prop :=
  Gives i s (fun t => LaneTrapped s t cause addr emask)

/-! ## Lane memory -/

/-- The address checks of a lane memory instruction find nothing (R274, R275). -/
abbrev LaneAddressesOk (s : State) (i : Instr) (f : LaneFields) (size align : Nat) (write : Bool) (ea : Lane → Word64) : Prop :=
  laneSpaceTrap i f.space.toNat = none ∧
  ∀ l : Lane, (s.me.todo f.sel).getLsbD l.val → s.addressTrap s.me f.space.toNat (ea l) = none ∧ (ea l).toNat % align = 0 ∧
    (write → s.hitsDescriptor s.me f.space.toNat (ea l) size = false)

/-- A byte of memory lies in an element of an active lane. -/
def InLane (s : State) (f : LaneFields) (size : Nat) (ea : Lane → Word64) (va : Nat) : Prop :=
  ∃ l : Lane, (s.me.todo f.sel).getLsbD l.val ∧ (ea l).toNat ≤ va ∧ va < (ea l).toNat + size

/-- A granule's data changed in no byte but those of the lanes' elements. -/
def DataKept (s : State) (f : LaneFields) (size : Nat) (ea : Lane → Word64) (granule : Nat) (new old : List Byte) : Prop :=
  new.length = old.length ∧ ∀ i, ¬ InLane s f size ea (256 * granule + i) → new[i]? = old[i]?

/-- The fill on its way with an access changed in no byte but those of the lanes' elements. -/
def FillKept (s : State) (f : LaneFields) (size : Nat) (ea : Lane → Word64) (a b : Access) : Prop :=
  match a.line, b.line with
  | some x, some y => x.2 = y.2 ∧ DataKept s f size ea (b.va.toNat / 256) x.1 y.1
  | none, none => True
  | _, _ => False

/-- The L1 lines of a core are the same but for bytes of the lanes' elements. -/
def LinesKept (s : State) (f : LaneFields) (size : Nat) (ea : Lane → Word64) (new old : List L1Line) : Prop :=
  new.length = old.length ∧ ∀ p ∈ new.zip old, p.1 = { p.2 with data := p.1.data } ∧ DataKept s f size ea p.2.granule p.1.data p.2.data

/-- The lane instruction entered an operation of its lanes with one access for each active lane, in lane order where no two overlap, and the
lane program counter passed it; an instruction with return-free reductions counts as an operation of the reduce counter (R142, R266, R294). Of the
core's L1, and of fills on their way to it, a store may change only the bytes of its lanes (R241). -/
def LaneIssues (s t : State) (f : LaneFields) (kind : Kind) (size : Nat) (entry : Bool) (dst : Option Opnd) (ea data cmp : Lane → Word64) : Prop :=
  let act := s.me.todo f.sel
  (∃ o : LaneOp, t.me.lq.ops = s.me.lq.ops ++ [o] ∧ o.n = s.nextId ∧ o.run = s.me.run.id ∧ o.idx = s.me.run.next ∧ o.dst = dst ∧ o.act = act ∧
    o.arrived = 0 ∧ o.faulted = 0 ∧ o.vals = []) ∧
  (∃ old xs : List Access, t.access = old ++ xs ∧ old.map bare = s.access.map bare ∧ (kind ≠ .store → old = s.access) ∧
    (∀ a ∈ old, ∃ b ∈ s.access, b.n = a.n ∧ a.sent = b.sent ∧ FillKept s f size ea a b) ∧ t.nextId = s.nextId + 1 + xs.length ∧
    (∀ x ∈ xs, ∃ l, act.getLsbD l.val ∧ x.origin = .lane s.nextId l) ∧
    (∀ l, act.getLsbD l.val → ∃ x ∈ xs, x.origin = .lane s.nextId l ∧ (x.space.toNat, x.va) = s.ownSpace f.space.toNat (ea l) ∧ x.size = size ∧
      x.kind = kind ∧ x.entry = entry ∧ x.data = data l ∧ x.cmp = cmp l ∧ x.pol = s.me.policy f ∧ x.status = .issued ∧ x.strand = s.me.who.id ∧
      x.run = s.me.run.id ∧ x.after = s.me.run.after) ∧
    (xs.map (fun x => x.origin)).Nodup) ∧
  t.me.ops = s.me.ops ++ (if kind.reduces then [{ n := s.nextId, cls := 7, done := false, flags := 0 }] else []) ∧
  t.me.lf = s.me.lf ∧ KeptScalars s t ∧ t.me.pend = s.me.pend ∧
  t = { s with me := { s.me with lq := { s.me.lq with ops := t.me.lq.ops, runs := t.me.lq.runs }, ops := t.me.ops
                                 sch := { s.me.sch with issuedNow := true } }
               access := t.access, nextId := t.nextId, fresh := t.fresh, cores := t.cores } ∧
  (∀ c, { t.core c with stalled := (s.core c).stalled, l1 := (s.core c).l1 } = s.core c ∧ LinesKept s f size ea (t.core c).l1 (s.core c).l1 ∧
    (kind ≠ .store → (t.core c).l1 = (s.core c).l1)) ∧
  (∀ r ∈ t.me.lq.runs, ∃ r₀ ∈ s.me.lq.runs, r = { r₀ with next := r₀.next + (if r₀.id = s.me.run.id then 1 else 0) }) ∧ SameBytes s t

/-- Two lanes of a mask that write no common byte. -/
abbrev LanesApart (act : Mask) (size : Nat) (ea : Lane → Word64) : Prop :=
  ∀ l k : Lane, act.getLsbD l.val → act.getLsbD k.val → l.val < k.val →
    (ea l).toNat + size ≤ (ea k).toNat ∨ (ea k).toNat + size ≤ (ea l).toNat

/-- The lanes' data stands in the own region of a space, every other byte of the crew reads as before, and no other memory changed. -/
def LanesStored (s t : State) (f : LaneFields) (c : Crew) (size : Nat) (ea data : Lane → Word64) : Prop :=
  let act := s.me.todo f.sel
  let sp := f.space.toNat
  (∃ c', t.crewOf s.me.who.gang s.me.who.peer = some c' ∧
    (∀ l, act.getLsbD l.val → c'.load sp (ea l).toNat size = leBytes size (data l).toNat) ∧
    (∀ sp' off, 1 ≤ sp' → sp' ≤ 5 → off < c.limit sp' →
      (∀ l, act.getLsbD l.val → ¬ (sp' = sp ∧ (ea l).toNat ≤ off ∧ off < (ea l).toNat + size)) → c'.load sp' off 1 = c.load sp' off 1)) ∧
  OtherCrews s t s.me.who.gang s.me.who.peer ∧ t.dram = s.dram ∧ t.host = s.host ∧ t.access = s.access ∧ t.me.lf = s.me.lf ∧ KeptScalars s t

end Sys2Proof.Safety
end

