-- ==== Sys2Proof/Certificates/Slice0/Obligations.lean ====
section
/-! DEFINITION. The statements for the provers. -/

open Sys2Proof Sys2Proof.Machine Sys2Proof.Safety

/-! ## Scalar registers and the integer group -/

/-- R12: s0 reads as zero, a write to it is discarded, and it does not become pending. -/
def Obligations.ZeroRegister : Prop :=
  ∀ (s : State) (v : Word64) (src : Source), s.reg 0 = 0 ∧ s.setReg 0 v = s ∧ (s.me.mark 0 src).isPending 0 = false ∧ (s.me.mark 0 src) = s.me

/-- R86: sums, differences and products wrap modulo 2^64, `mulh` and `mulhn` give bits 127:64 of the exact product; bitwise operations, shifts
and the rotation by b[5:0]; signed and unsigned minimum, maximum and comparisons, which give 1 or 0. Nothing else changes. -/
def Obligations.IntegerRegister : Prop :=
  ∀ (s : State) (d a b : Reg), Ready s [d, a, b] →
    let x := s.reg a
    let y := s.reg b
    let n := y.toNat % 64
    Computes s (.add d a b) d (x + y) ∧
    Computes s (.sub d a b) d (x - y) ∧
    Computes s (.mul d a b) d (x * y) ∧
    Computes s (.mulh d a b) d (BitVec.ofInt 64 (x.toInt * y.toInt / 2 ^ 64)) ∧
    Computes s (.mulhn d a b) d (BitVec.ofNat 64 (x.toNat * y.toNat / 2 ^ 64)) ∧
    Computes s (.and d a b) d (x &&& y) ∧
    Computes s (.or d a b) d (x ||| y) ∧
    Computes s (.xor d a b) d (x ^^^ y) ∧
    Computes s (.andn d a b) d (x &&& ~~~y) ∧
    Computes s (.shl d a b) d (x <<< n) ∧
    Computes s (.shr d a b) d (x >>> n) ∧
    Computes s (.sra d a b) d (x.sshiftRight n) ∧
    Computes s (.rol d a b) d ((x <<< n) ||| (x >>> ((64 - n) % 64))) ∧
    Computes s (.min d a b) d (if x.toInt ≤ y.toInt then x else y) ∧
    Computes s (.max d a b) d (if x.toInt ≤ y.toInt then y else x) ∧
    Computes s (.minn d a b) d (if x.toNat ≤ y.toNat then x else y) ∧
    Computes s (.maxn d a b) d (if x.toNat ≤ y.toNat then y else x) ∧
    Computes s (.seq d a b) d (if x = y then 1 else 0) ∧
    Computes s (.sne d a b) d (if x = y then 0 else 1) ∧
    Computes s (.slt d a b) d (if x.toInt < y.toInt then 1 else 0) ∧
    Computes s (.sle d a b) d (if x.toInt ≤ y.toInt then 1 else 0) ∧
    Computes s (.sltn d a b) d (if x.toNat < y.toNat then 1 else 0) ∧
    Computes s (.slen d a b) d (if x.toNat ≤ y.toNat then 1 else 0)

/-- R86: bit counts and extensions. `popc` counts the one bits; `clz` and `ctz` give the k for which k zero bits stand above (below) the
highest (lowest) one bit, 64 for zero. Nothing else changes. -/
def Obligations.IntegerUnary : Prop :=
  ∀ (s : State) (d a : Reg), Ready s [d, a] →
    let x := s.reg a
    Computes s (.popc d a) d (BitVec.ofNat 64 ((List.range 64).countP (fun i => x.getLsbD i))) ∧
    (∃ k, k ≤ 64 ∧ (∀ i, 64 - k ≤ i → x.getLsbD i = false) ∧ (k < 64 → x.getLsbD (63 - k) = true) ∧
      Computes s (.clz d a) d (BitVec.ofNat 64 k)) ∧
    (∃ k, k ≤ 64 ∧ (∀ i, i < k → x.getLsbD i = false) ∧ (k < 64 → x.getLsbD k = true) ∧ Computes s (.ctz d a) d (BitVec.ofNat 64 k)) ∧
    Computes s (.sextb d a) d ((x.extractLsb' 0 8).signExtend 64) ∧
    Computes s (.sexth d a) d ((x.extractLsb' 0 16).signExtend 64) ∧
    Computes s (.sextw d a) d ((x.extractLsb' 0 32).signExtend 64) ∧
    Computes s (.zextb d a) d (x &&& 0xFF) ∧
    Computes s (.zexth d a) d (x &&& 0xFFFF) ∧
    Computes s (.zextw d a) d (x &&& 0xFFFFFFFF)

/-- R88, R89, R91: the immediate group, `ldi` and `sel`; `sel` reads all three sources. Nothing else changes. -/
def Obligations.ImmediatesAndSelect : Prop :=
  ∀ (s : State) (d a b c : Reg) (i : BitVec 13) (n : BitVec 6) (w : BitVec 19), Ready s [d, a, b, c] →
    let x := s.reg a
    let v := i.signExtend 64
    Computes s (.addi d a i) d (x + v) ∧
    Computes s (.andi d a i) d (x &&& v) ∧
    Computes s (.ori d a i) d (x ||| v) ∧
    Computes s (.xori d a i) d (x ^^^ v) ∧
    Computes s (.shli d a n) d (x <<< n.toNat) ∧
    Computes s (.shri d a n) d (x >>> n.toNat) ∧
    Computes s (.srai d a n) d (x.sshiftRight n.toNat) ∧
    Computes s (.slti d a i) d (if x.toInt < v.toInt then 1 else 0) ∧
    Computes s (.sltni d a i) d (if x.toNat < v.toNat then 1 else 0) ∧
    Computes s (.ldi d w) d (w.signExtend 64) ∧
    Computes s (.sel d a b c) d (if x = 0 then s.reg c else s.reg b)

/-- R87: quotients truncate toward zero and a remainder has the sign of the dividend; the one signed overflow wraps; a zero divisor traps
with Integer Divide and leaves s(sd) unchanged. -/
def Obligations.Division : Prop :=
  ∀ (s : State) (d a b : Reg), Ready s [d, a, b] →
    let x := s.reg a
    let y := s.reg b
    (y ≠ 0 →
      Computes s (.div d a b) d (BitVec.ofInt 64 (x.toInt.tdiv y.toInt)) ∧
      Computes s (.rem d a b) d (BitVec.ofInt 64 (x.toInt.tmod y.toInt)) ∧
      Computes s (.divn d a b) d (BitVec.ofNat 64 (x.toNat / y.toNat)) ∧
      Computes s (.remn d a b) d (BitVec.ofNat 64 (x.toNat % y.toNat))) ∧
    (y = 0 → CanTrap s →
      Traps s (.div d a b) 0x28 0 ∧ Traps s (.rem d a b) 0x28 0 ∧ Traps s (.divn d a b) 0x28 0 ∧ Traps s (.remn d a b) 0x28 0)

/-! ## Branches -/

/-- R92–R95: a branch takes effect at once; `bal` and `jalr` write the return address; `dbnz` decrements first. -/
def Obligations.Branches : Prop :=
  ∀ (s : State) (d a : Reg) (o : BitVec 25) (h : BitVec 16) (c : BitVec 3),
    let x := s.reg a
    let near := s.me.pc + 4 * h.signExtend 64
    let far := s.me.pc + 4 * o.signExtend 64
    Gives (.b o) s (fun t => t.me.pc = far ∧ OnlyPc s t) ∧
    (Ready s [59] → Gives (.bal o) s (fun t => t.me.pc = far ∧ t.reg 59 = s.me.pc + 4 ∧ OnlyReg s t 59)) ∧
    (Ready s [a] → c ≠ 7 →
      Gives (.bc c a h) s (fun t => OnlyPc s t ∧ t.me.pc =
        (if (c = 0 ∧ x = 0) ∨ (c = 1 ∧ x ≠ 0) ∨ (c = 2 ∧ x.toInt < 0) ∨ (c = 3 ∧ 0 ≤ x.toInt) ∨ (c = 4 ∧ 0 < x.toInt) ∨ (c = 5 ∧ x.toInt ≤ 0) ∨ c = 6
         then near else s.me.pc + 4))) ∧
    (Ready s [a] → x.toNat % 4 = 0 → Gives (.jr a) s (fun t => t.me.pc = x ∧ OnlyPc s t)) ∧
    (Ready s [d, a] → x.toNat % 4 = 0 →
      Gives (.jalr d a) s (fun t => t.me.pc = x ∧ t.reg d = (if d = 0 then 0 else s.me.pc + 4) ∧ OnlyReg s t d)) ∧
    (Ready s [a] → a ≠ 0 →
      Gives (.dbnz a h) s (fun t => t.reg a = x - 1 ∧ t.me.pc = (if x = 1 then s.me.pc + 4 else near) ∧ OnlyReg s t a))


/-! ## Constants from code, lane control, mask transfer -/

/-- R90: `ldk` writes the little-endian value of the eight bytes at pc + 8 × imm19, read through the fetch path; a fetch fault is its trap.
Where the core holds the granules, the fetch changes nothing.
Where the spec leaves it open, this is the model's reading: log entry 28. -/
def Obligations.ConstantLoad : Prop :=
  ∀ (s : State) (d : Reg) (i : BitVec 19),
    (∀ u bs, Ready s [d] → s.fetch (s.me.pc + 8 * i.signExtend 64) 8 = (u, .bytes bs) →
      Gives (.ldk d i) s (fun t => t.reg d = (if d = 0 then 0 else BitVec.ofNat 64 (ofLe bs)) ∧ t.me.pc = u.me.pc + 4 ∧ OnlyReg u t d)) ∧
    (∀ u f e, Ready s [d] → CanTrap u → s.fetch (s.me.pc + 8 * i.signExtend 64) 8 = (u, .fault f e) →
      Gives (.ldk d i) s (fun t => Trapped u t f e u.me.pc)) ∧
    (∀ (va : Word64) (l : FetchLine), canonical va → va.toNat % 256 + 8 ≤ 256 → l ∈ (s.core s.me.who.id.core).fetch →
      l.granule = va.toNat / 256 → l.asid = s.me.sy.asid → (s.me.tr.sup ∨ l.sup = false) →
      (∀ k ∈ (s.core s.me.who.id.core).fetch, k.granule = l.granule → k.asid = l.asid → k = l) →
      s.fetch va 8 = (s, .bytes (slice l.data (va.toNat % 256) 8)))

/-- R22–R24, R96, R97: `lrun` and `lrunr` by a strand of role V or S capture k0–k3 and em0–em2 and append a run whose instructions stand
from LCB + 12 × index, marking pending the scalar registers that its instructions write. With eight runs queued they wait.
Where the spec leaves it open, this is the model's reading: log entry 2. -/
def Obligations.LaneRuns : Prop :=
  ∀ (s : State) (k a : Reg) (c : BitVec 5) (i : BitVec 14) (u : State) (bs : List Byte), k.val ≤ 60 → s.me.who.role = 0 ∨ s.me.who.role = 3 →
    Ready s [k, k + 1, k + 2, k + 3, a, 56, 57, 58] → Ready u ((laneWordsOf bs (c.toNat + 1)).filterMap lanePolicy) →
    (s.fetch (s.me.sy.lcb + 12 * i.setWidth 64) (12 * (c.toNat + 1)) = (u, .bytes bs) →
      (u.me.lq.runs.length < 8 →
        Gives (.lrun k c i) s (fun t => RunEnqueued u t k (s.me.sy.lcb + 12 * i.setWidth 64) (laneWordsOf bs (c.toNat + 1)))) ∧
      (8 ≤ u.me.lq.runs.length → Gives (.lrun k c i) s (fun t => t = u.wait .none))) ∧
    (s.fetch (s.me.sy.lcb + 12 * s.reg a) (12 * (c.toNat + 1)) = (u, .bytes bs) →
      (u.me.lq.runs.length < 8 →
        Gives (.lrunr k a c) s (fun t => RunEnqueued u t k (s.me.sy.lcb + 12 * s.reg a) (laneWordsOf bs (c.toNat + 1)))) ∧
      (8 ≤ u.me.lq.runs.length → Gives (.lrunr k a c) s (fun t => t = u.wait .none)))

/-- R26, R98, R99: `lwait n` retires when at most n runs remain, and waits otherwise; `mget` and `mset` move one 32-lane part of a mask
register when the lane queue is empty. -/
def Obligations.LaneWaitAndMasks : Prop :=
  ∀ (s : State) (d a : Reg) (p : BitVec 2) (k : Fin 8) (n : BitVec 19),
    (n.toNat ≤ 8 → s.me.lq.runs.length ≤ n.toNat → Gives (.lwait n) s (fun t => t.me.pc = s.me.pc + 4 ∧ OnlyPc s t)) ∧
    (n.toNat ≤ 8 → n.toNat < s.me.lq.runs.length → Gives (.lwait n) s (fun t => t = s.wait .none)) ∧
    (p ≠ 3 → s.me.lanesEmpty → Ready s [d] →
      Computes s (.mget d p k) d (((s.me.lf.m[k]).extractLsb' (32 * p.toNat) 32).setWidth 64)) ∧
    (p ≠ 3 → s.me.lanesEmpty → Ready s [a] →
      Gives (.mset a p k) s (fun t =>
        (∀ l, l < 96 → (t.me.lf.m[k]).getLsbD l = if l / 32 = p.toNat then (s.reg a).getLsbD (l % 32) else (s.me.lf.m[k]).getLsbD l) ∧
        (∀ j, j ≠ k → t.me.lf.m[j] = s.me.lf.m[j]) ∧ t.me.pc = s.me.pc + 4 ∧
        t = { s with me := { s.me with lf := { s.me.lf with m := t.me.lf.m }, pc := t.me.pc, sch := moved s.me.sch } } ∧ SameBytes s t))

/-- R18, R23, R82, R94–R99, R152: where branches and lane control trap. The reserved condition of `bc`, a `dbnz` of s0, a kfirst above 60, an
`lwait` above 8 and a part 3 are Undefined; `jr` and `jalr` to a target that is no multiple of 4 are Misaligned and write no register; a strand
of role C or M that executes `lrun` or `lrunr` takes the Role trap and enqueues nothing. -/
def Obligations.ControlTraps : Prop :=
  ∀ (s : State) (d k a : Reg) (h : BitVec 16) (c : BitVec 5) (i : BitVec 14) (n : BitVec 19) (m : Fin 8), CanTrap s →
    Traps s (.bc 7 a h) 0x01 0 ∧
    Traps s (.dbnz 0 h) 0x01 0 ∧
    (Ready s [d, a] → (s.reg a).toNat % 4 ≠ 0 → Traps s (.jr a) 0x06 (s.reg a) ∧ Traps s (.jalr d a) 0x06 (s.reg a)) ∧
    (60 < k.val → Traps s (.lrun k c i) 0x01 0 ∧ Traps s (.lrunr k a c) 0x01 0) ∧
    (8 < n.toNat → Traps s (.lwait n) 0x01 0) ∧
    Traps s (.mget a 3 m) 0x01 0 ∧ Traps s (.mset a 3 m) 0x01 0 ∧
    (k.val ≤ 60 → s.me.who.role = 1 ∨ s.me.who.role = 2 → Traps s (.lrun k c i) 0x03 0 ∧ Traps s (.lrunr k a c) 0x03 0)

/-! ## Scalar memory -/

/-- R100–R103, R237, R238, R265, R276, R291, R292: a global `ld`, `st`, `amo`, `amo.nr` or `cas` whose operands raise no trap issues one access with the
address, the data and the policy of its registers; so does an `ld` or `st` to a peer's G region, and an `amo` or `amo.nr` with loc = 1, which takes no
waiting-table entry. A destination that waits for data becomes pending, and the stream goes on. -/
def Obligations.ScalarAccessIssue : Prop :=
  ∀ (s : State) (d a b : Reg) (g : Bool) (z : BitVec 2) (o : BitVec 4) (w : Bool) (p : Reg),
    let pol := (s.reg b).setWidth 32
    let pol' := (s.reg p).setWidth 32
    let n := if w then 8 else 4
    Ready s [d, a, b] → Pol.ok pol →
    ((g = false ∨ z ≠ 3) → Pol.release pol = false → GlobalReady s (s.reg a) (2 ^ z.toNat) → s.entryFree false →
      Gives (.ld d a b g 0 z) s (fun t => Issues s t (scalarAccess s d g true .load 0 (s.reg a) (2 ^ z.toNat) 0 0 pol) (some d))) ∧
    (Pol.acquire pol = false → (Pol.release pol → s.me.lanesReleased) → GlobalReady s (s.reg a) (2 ^ z.toNat) →
      Gives (.st d a b 0 z) s (fun t => Issues s t (scalarAccess s d false false .store 0 (s.reg a) (2 ^ z.toNat) (s.reg d) 0 pol) none)) ∧
    ((Instr.amo d a b o w false).wellFormed → (Pol.release pol → s.me.lanesReleased) → GlobalReady s (s.reg a) n → s.entryFree false →
      Gives (.amo d a b o w false) s (fun t =>
        Issues s t (scalarAccess s d false true (.atomic o true) 0 (s.reg a) n (s.reg d) 0 pol) (some d))) ∧
    ((Instr.amoNr d a b o w false).wellFormed → Pol.acquire pol = false → (Pol.release pol → s.me.lanesReleased) → s.me.reduceFull = false →
      GlobalReady s (s.reg a) n →
      Gives (.amoNr d a b o w false) s (fun t =>
        Issues s t (scalarAccess s d false false (.atomic o false) 0 (s.reg a) n (s.reg d) 0 pol) none)) ∧
    (Ready s [p] → Pol.ok pol' → (Pol.release pol' → s.me.lanesReleased) → GlobalReady s (s.reg a) n → s.entryFree false →
      Gives (.cas d a b w p) s (fun t =>
        Issues s t (scalarAccess s d false true .cas 0 (s.reg a) n (s.reg b) (s.reg d) pol') (some d))) ∧
    (s.addressTrap s.me 6 (s.reg a) = none →
      let at' := s.ownSpace 6 (s.reg a)
      (at'.1 = 6 → (s.reg a).toNat % 2 ^ z.toNat = 0 →
        ((g = false ∨ z ≠ 3) → Pol.release pol = false →
          Gives (.ld d a b g 6 z) s (fun t => Issues s t (scalarAccess s d g false .load 6 (s.reg a) (2 ^ z.toNat) 0 0 pol) (some d))) ∧
        (Pol.acquire pol = false → (Pol.release pol → s.me.lanesReleased) → s.hitsDescriptor s.me 6 (s.reg a) (2 ^ z.toNat) = false →
          Gives (.st d a b 6 z) s (fun t => Issues s t (scalarAccess s d false false .store 6 (s.reg a) (2 ^ z.toNat) (s.reg d) 0 pol) none))) ∧
      ((s.reg a).toNat % n = 0 → s.hitsDescriptor s.me 6 (s.reg a) n = false → (Pol.release pol → s.me.lanesReleased) →
        ((Instr.amo d a b o w true).wellFormed → Gives (.amo d a b o w true) s (fun t =>
          Issues s t (scalarAccess s d false false (.atomic o true) (BitVec.ofNat 3 at'.1) at'.2 n (s.reg d) 0 pol) (some d))) ∧
        ((Instr.amoNr d a b o w true).wellFormed → Pol.acquire pol = false → s.me.reduceFull = false → Gives (.amoNr d a b o w true) s (fun t =>
          Issues s t (scalarAccess s d false false (.atomic o false) (BitVec.ofNat 3 at'.1) at'.2 n (s.reg d) 0 pol) none))))

/-- R25, R83, R265–R267: a scalar instruction that reads or writes a pending register, and whose encoding, role, mode and space code raise no trap, stays
where it is, and only what the strand waits for is noted; with no waiting-table entry free, a global load waits at the head of its stream and joins the
core's stalled requests.
Where the spec leaves it open, this is the model's reading: log entry 2. -/
def Obligations.PendingStall : Prop :=
  ∀ (s : State) (d a b c : Reg) (i13 : BitVec 13) (n6 : BitVec 6) (w19 : BitVec 19) (o25 : BitVec 25) (o16 : BitVec 16) (cond p3 lay : BitVec 3) (n5 : BitVec 5)
    (x14 : BitVec 14) (r : BitVec 12) (p2 z tag : BitVec 2) (k : Fin 8) (g w l own : Bool) (op : BitVec 4) (q : Fin 32) (arr : Fin 4),
    let stalls := fun (es : List (Instr × List Reg)) => ∀ e ∈ es, e.1.wellFormed → ¬ Ready s e.2 →
      Gives e.1 s (fun t => t = { s with me := { s.me with sch := { s.me.sch with wait := t.me.sch.wait, woken := false } } })
    stalls [(.add d a b, [d, a, b]), (.sub d a b, [d, a, b]), (.mul d a b, [d, a, b]), (.mulh d a b, [d, a, b]), (.mulhn d a b, [d, a, b]),
      (.div d a b, [d, a, b]), (.divn d a b, [d, a, b]), (.rem d a b, [d, a, b]), (.remn d a b, [d, a, b]), (.and d a b, [d, a, b]),
      (.or d a b, [d, a, b]), (.xor d a b, [d, a, b]), (.andn d a b, [d, a, b]), (.shl d a b, [d, a, b]), (.shr d a b, [d, a, b]),
      (.sra d a b, [d, a, b]), (.rol d a b, [d, a, b]), (.min d a b, [d, a, b]), (.max d a b, [d, a, b]), (.minn d a b, [d, a, b]),
      (.maxn d a b, [d, a, b]), (.seq d a b, [d, a, b]), (.sne d a b, [d, a, b]), (.slt d a b, [d, a, b]), (.sle d a b, [d, a, b]),
      (.sltn d a b, [d, a, b]), (.slen d a b, [d, a, b])] ∧
    stalls [(.popc d a, [d, a]), (.clz d a, [d, a]), (.ctz d a, [d, a]), (.sextb d a, [d, a]), (.sexth d a, [d, a]), (.sextw d a, [d, a]),
      (.zextb d a, [d, a]), (.zexth d a, [d, a]), (.zextw d a, [d, a]), (.addi d a i13, [d, a]), (.andi d a i13, [d, a]), (.ori d a i13, [d, a]),
      (.xori d a i13, [d, a]), (.shli d a n6, [d, a]), (.shri d a n6, [d, a]), (.srai d a n6, [d, a]), (.slti d a i13, [d, a]),
      (.sltni d a i13, [d, a]), (.ldi d w19, [d]), (.ldk d w19, [d]), (.sel d a b c, [d, a, b, c])] ∧
    stalls [(.bal o25, [59]), (.bc cond a o16, [a]), (.jr a, [a]), (.jalr d a, [d, a]), (.dbnz a o16, [a]), (.mget d p2 k, [d]), (.mset a p2 k, [a])] ∧
    (s.me.who.role = 0 ∨ s.me.who.role = 3 → stalls [(.lrun c n5 x14, [c, c + 1, c + 2, c + 3, 56, 57, 58]),
      (.lrunr c a n5, [c, c + 1, c + 2, c + 3, a, 56, 57, 58])]) ∧
    (p3 = 0 ∨ p3 = 1 ∨ p3 = 6 → stalls [(.ld d a b g p3 z, [d, a, b]), (.st d a b p3 z, [d, a, b])]) ∧
    stalls [(.amo d a b op w l, [d, a, b]), (.amoNr d a b op w l, [d, a, b]), (.cas d a b w c, [d, a, b, c]), (.pause a b, [a, b]),
      (.qdef a b q, [a, b]), (.push a b own q, [a, b]), (.pop d b own q, [d, b]), (.qtryPush d a b own q, [d, a, b]), (.qtryPop d b own q, [d, b]),
      (.qinfo d b own q, [d, b]), (.rlock d a p3, [d, a]), (.runlock d a p3, [d, a]), (.wlock d a p3, [d, a]), (.wunlock d a p3, [d, a])] ∧
    (s.me.who.role = 1 → stalls [(.cpy a b tag lay, regNames a 4 ++ [b]), (.cpyg a b tag, regNames a 5 ++ [b])]) ∧
    (s.me.who.role = 2 → stalls [(.mlds a b, [a, b]), (.mloop a b, regNames a 4 ++ [b]), (.cclr a b, [a, b]), (.cstore a b lay, regNames a 4 ++ [b]),
      (.xprog a arr, [a]), (.xmvm a arr, regNames a 3), (.xcal d a arr, [d, a])]) ∧
    (s.me.who.role = 3 → stalls [(.nlaunch a b, regNames a 5 ++ [b]), (.nrowZero a b, regNames a 3 ++ [b]), (.nrowCopy a b, regNames a 3 ++ [b])] ∧
      (cmdRegs a 4 → stalls [(.nred a b, regNames a 3 ++ [b])])) ∧
    (s.sysRead r.toNat ≠ none → (s.me.tr.sup ∨ r.toNat < 0x0F0 → stalls [(.gets d r, [d])]) ∧
      (s.me.tr.sup ∨ userBits r.toNat ≠ 0 → stalls [(.sets a r, [a])])) ∧
    stalls [(.rngseedWrite a, [a]), (.flagsRead d, [d]), (.flagsWrite a, [a]), (.lcbWrite a, [a]), (.qbaseWrite a, [a])] ∧
    (s.me.tr.sup → stalls [(.prioWrite a, [a]), (.tvecWrite a, [a]), (.mapft d a b, [d, a, b]), (.tlbinvOwn d a b, [d, a, b]),
      (.tlbinvAsid d a b, [d, a, b]), (.tlbinvAll d a b, [d, a, b]), (.tlbinvAllasid d a b, [d, a, b]), (.ccinvInv d a b, [d, a, b])]) ∧
    stalls [(.pdisc d a b, [d, a, b]), (.ccinvWb d a b, [d, a, b]), (.ccinvWbinv d a b, [d, a, b]), (.flaunch d a, [d, a])] ∧
    (Ready s [d, a, b] → Pol.ok ((s.reg b).setWidth 32) → Pol.release ((s.reg b).setWidth 32) = false → GlobalReady s (s.reg a) (2 ^ z.toNat) →
      s.entryFree false = false →
      Gives (.ld d a b false 0 z) s (fun t => t.me.pc = s.me.pc ∧ t.access = s.access ∧
        (∃ e ∈ (t.core s.me.who.id.core).stalled, e.2 = (s.me.who.id, false)) ∧
        (∀ r, t.reg r = s.reg r) ∧ SameBytes s t))

/-- R103, R104, R233, R236, R237: `ld` and `st` on the own G region, in space 1 or by the own core's number in space 6, act at once. The load writes
the little-endian value at the offset, sign-extended on request; the store changes the bytes of its extent and no other byte, register or region.
Where the spec leaves it open, this is the model's reading: log entry 112. -/
def Obligations.OwnRegionAccess : Prop :=
  ∀ (s : State) (d a b : Reg) (g : Bool) (p : BitVec 3) (z : BitVec 2) (c : Crew) (at' : Word64),
    let pol := (s.reg b).setWidth 32
    let off := at'.toNat
    let n := 2 ^ z.toNat
    p = 1 ∨ p = 6 → s.ownSpace p.toNat (s.reg a) = (1, at') → s.addressTrap s.me p.toNat (s.reg a) = none →
    Numbered s → Ready s [d, a, b] → Pol.ok pol → s.crewOf s.me.who.gang s.me.who.peer = some c → s.me.live → (s.reg a).toNat % n = 0 →
    s.wakingAt c 1 off n = false →
    ((g = false ∨ z ≠ 3) → Pol.release pol = false → s.mayPerform s.me (scalarAccess s d g false .load 1 at' n 0 0 pol) →
      Gives (.ld d a b g p z) s (fun t =>
        t.reg d = (if d = 0 then 0 else
          let v := ofLe (c.mg.bytes off n)
          if g then BitVec.ofInt 64 (BitVec.ofNat (8 * n) v).toInt else BitVec.ofNat 64 v) ∧
        (∀ r, r ≠ d → t.reg r = s.reg r) ∧ t.me.pc = s.me.pc + 4 ∧ t.crews = s.crews ∧
        (Pol.acquire pol = false → t.access = s.access ∧ t.cores = s.cores ∧ SameBytes s t))) ∧
    (Pol.acquire pol = false → Pol.release pol = false → c.touchesDescriptor off n = false →
      s.mayPerform s.me (scalarAccess s d false false .store 1 at' n (s.reg d) 0 pol) →
      Gives (.st d a b p z) s (fun t =>
        (∃ c', t.crewOf s.me.who.gang s.me.who.peer = some c' ∧ c'.mw = c.mw ∧ c'.ma = c.ma ∧ c'.mc = c.mc ∧
          (∀ i, i < n → c'.mg.read (off + i) = (s.reg d).extractLsb' (8 * i) 8) ∧
          (∀ i, i < off ∨ off + n ≤ i → c'.mg.read i = c.mg.read i)) ∧
        (∀ g' p', ¬ (g' = s.me.who.gang ∧ p' = s.me.who.peer) → t.crewOf g' p' = s.crewOf g' p') ∧
        (∀ r, t.reg r = s.reg r) ∧ t.me.pc = s.me.pc + 4 ∧ t.dram = s.dram ∧ t.host = s.host ∧ t.access = s.access))

/-- R102, R105, R203, R271–R275: the traps of scalar accesses in their order. A reserved policy word or order is Undefined; W, A and exact C are
Protection and bounded C is Type; then the address, its alignment, and a write into a queue's descriptor.
Where the spec leaves it open, this is the model's reading: log entry 84. -/
def Obligations.ScalarMemoryTraps : Prop :=
  ∀ (s : State) (d a b : Reg) (g : Bool) (z : BitVec 2), CanTrap s →
    let ea := s.reg a
    let pol := (s.reg b).setWidth 32
    (∀ p : BitVec 3, p = 2 ∨ p = 3 ∨ p = 4 → (Instr.ld d a b g p z).wellFormed →
      Traps s (.ld d a b g p z) 0x09 ea ∧ Traps s (.st d a b p z) 0x09 ea) ∧
    ((Instr.ld d a b g 5 z).wellFormed → Traps s (.ld d a b g 5 z) 0x04 ea ∧ Traps s (.st d a b 5 z) 0x04 ea) ∧
    (Ready s [d, a, b] →
      ((Instr.ld d a b g 0 z).wellFormed → (Pol.ok pol = false ∨ Pol.release pol) → Traps s (.ld d a b g 0 z) 0x01 0) ∧
      ((Pol.ok pol = false ∨ Pol.acquire pol) → Traps s (.st d a b 0 z) 0x01 0) ∧
      ((Instr.ld d a b g 0 z).wellFormed → Pol.ok pol → Pol.release pol = false →
        (canonical ea = false → Traps s (.ld d a b g 0 z) 0x07 ea) ∧
        (canonical ea → ea.toNat % 2 ^ z.toNat ≠ 0 → Traps s (.ld d a b g 0 z) 0x06 ea)) ∧
      (Pol.ok pol → Pol.acquire pol = false →
        (canonical ea = false → Traps s (.st d a b 0 z) 0x07 ea) ∧
        (canonical ea → ea.toNat % 2 ^ z.toNat ≠ 0 → Traps s (.st d a b 0 z) 0x06 ea) ∧
        (∀ c, s.crewOf s.me.who.gang s.me.who.peer = some c →
          (c.g * 1024 ≤ ea.toNat → Traps s (.st d a b 1 z) 0x07 ea) ∧
          (ea.toNat < c.g * 1024 → ea.toNat % 2 ^ z.toNat = 0 → c.touchesDescriptor ea.toNat (2 ^ z.toNat) →
            Traps s (.st d a b 1 z) 0x09 ea))))

/-- R304–R307: a release fence waits until the lane runs enqueued before it are complete, return-free reductions apart, and the strand's earlier
accesses are performed; an acquire fence until the strand's reads have returned and the writes that they saw are performed; then a fence acts on the
caches of its scope and the stream goes on. `fence.ar` is the release fence and then the acquire fence.
Where the spec leaves it open, this is the model's reading: log entries 29 and 89. -/
def Obligations.Fences : Prop :=
  ∀ (s : State) (sc : BitVec 3), sc.toNat < 5 →
    let w := s.me.who
    let rel := fun (u : State) => u.releaseAt w.id.core.die w.gang sc.toNat
    let acq := fun (u : State) => u.acquireAt w.id.core w.gang s.me.sy.asid sc.toNat
    let returned := fun (u : State) => ∀ a ∈ u.access, a.n ∉ s.me.seen ∧
      (a.strand = w.id → a.isScalar → a.kind.ordered → a.kind ≠ .store → a.kind.reduces = false → a.performed)
    (s.me.lanesReleased → s.drained → Gives (.fenceRel sc) s (fun t => t = (rel s).advance)) ∧
    (returned s → Gives (.fenceAcq sc) s (fun t => t = (acq s).advance)) ∧
    (¬ returned s → Gives (.fenceAcq sc) s (fun t => t = s.wait .none)) ∧
    (s.me.lanesReleased → s.drained →
      (returned (rel s) → Gives (.fenceAr sc) s (fun t => t = (acq (rel s)).advance)) ∧
      (¬ returned (rel s) → Gives (.fenceAr sc) s (fun t => t = (rel s).wait .none))) ∧
    (s.access = [] → s.me.lanesEmpty → sc.toNat < 2 →
      Gives (.fenceAr sc) s (fun t => t.me.pc = s.me.pc + 4 ∧ OnlyPc s t) ∧
      Gives (.fenceRel sc) s (fun t => t.me.pc = s.me.pc + 4 ∧ OnlyPc s t) ∧
      Gives (.fenceAcq sc) s (fun t => t.me.pc = s.me.pc + 4 ∧ OnlyPc s t)) ∧
    (¬ (s.me.lanesReleased ∧ s.drained) → Gives (.fenceRel sc) s (fun t => t = s.wait .none) ∧ Gives (.fenceAr sc) s (fun t => t = s.wait .none))

/-! ## Pause, queues and locks -/

/-- R192–R194, R200: `pause` on a legal party lowers the strand's priority for n cycles, n from 1 to 65,535, and goes on; an illegal wait traps with
the party as EADDR, and another n is Undefined. Where the spec leaves it open, this is the model's reading: log entry 17. -/
def Obligations.Pause : Prop :=
  ∀ (s : State) (p a : Reg), Ready s [p, a] →
    let w := s.reg p
    let n := (s.reg a).toNat
    (partyOk w.toNat → s.waitOk w → 0 < n → n ≤ 65535 →
      Gives (.pause p a) s (fun t => t.me.sch.paused.toNat = n ∧ t.me.pc = s.me.pc + 4 ∧
        t = { s with me := { s.me with pc := t.me.pc, sch := { moved s.me.sch with paused := t.me.sch.paused } } } ∧ SameBytes s t)) ∧
    (CanTrap s → partyOk w.toNat → s.waitOk w = false → Traps s (.pause p a) 0x10 w) ∧
    (CanTrap s → partyOk w.toNat = false ∨ (s.waitOk w ∧ (n = 0 ∨ 65535 < n)) → Traps s (.pause p a) 0x01 0)

/-- R203, R205: in its turn at the queue unit, `qdef` writes the descriptor of an empty queue with every slot allowed, and no other byte.
Where the spec leaves it open, this is the model's reading: log entry 36. -/
def Obligations.QueueDefinition : Prop :=
  ∀ (s : State) (a b : Reg) (q : Fin 32) (c : Crew) (base size slots prod cons : Nat),
    let d := c.descriptor q.val
    Ready s [a, b] → s.mayRelease → s.crewOf s.me.who.gang s.me.who.peer = some c → s.queueServes (s.queueId s.me.who.peer q) c →
    (s.reg a).toNat = slots * 2 ^ 40 + size * 2 ^ 32 + base → 2 ≤ slots → slots ≤ 64 → 1 ≤ size → size ≤ 64 → base % 4 = 0 →
    d + 32 ≤ c.g * 1024 → base + (slots + 1) * (4 * size) ≤ c.g * 1024 → base < 2 ^ 18 →
    (s.reg b).toNat = cons * 2 ^ 32 + prod → prod < 2 ^ 22 → cons < 2 ^ 22 → s.me.who.namesSome prod → s.me.who.namesSome cons →
    (∀ x ∈ c.pushers ++ c.poppers, x.1 ≠ q) → (c.descAt d).reserve = false →
    Gives (.qdef a b q) s (fun t =>
      (∃ c', t.crewOf s.me.who.gang s.me.who.peer = some c' ∧
        c'.descAt d = { base, size := 4 * size, slots, defined := true, reserve := false, allowance := slots, fill := 0, head := 0, tail := 0
                        producer := prod, consumer := cons, phase := 0 } ∧
        (∀ i, i < d ∨ d + 32 ≤ i → c'.mg.read i = c.mg.read i) ∧ c'.mw = c.mw ∧ c'.ma = c.ma ∧ c'.mc = c.mc) ∧
      OtherCrews s t s.me.who.gang s.me.who.peer ∧ (∀ r, t.reg r = s.reg r) ∧ t.me.pc = s.me.pc + 4)

/-- R206–R209: a queue operation is performed in its turn at the queue unit, at most one of a queue in a cycle, and waits for that turn else. A push
that has room and a pop that finds an entry change the queue's bytes in G and no other local byte, and their strand goes on; `qtry` says by s(sd)
whether it did, and `pop` and `qtry.pop` give the entry's word. A push without allowance and a pop of an empty queue park: the strand waits at the
instruction in the queue's list, and no byte and no register changes. Where the spec leaves it open, this is the model's reading: log entry 36. -/
def Obligations.QueueTransfers : Prop :=
  ∀ (s : State) (a b r : Reg) (o : Bool) (q : Fin 32) (peer : Nat) (c : Crew),
    let d := c.descriptor q.val
    let k := c.descAt d
    let g := s.me.who.gang
    let pushed := pushInto c.mg d ((s.reg a).toNat % 2 ^ 32)
    let popped := popFrom c.mg d
    let keeps := fun (t : State) => ∀ i, t.reg i = s.reg i
    let result := fun (t : State) (v : Word64) => t.reg r = (if r = 0 then 0 else v) ∧ ∀ i, i ≠ r → t.reg i = s.reg i
    QueueAt s b o q peer c → Ready s [a, b, r] → k.defined →
    (s.queueServes (s.queueId peer q) c →
      (s.mayRelease → k.allowance ≠ 0 →
        (inParty k.producer s.me.who.peer s.me.who.cs →
          Gives (.push a b o q) s (fun t => OnlyG s t g peer c pushed ∧ t.me.pc = s.me.pc + 4 ∧ keeps t)) ∧
        Gives (.qtryPush r a b o q) s (fun t => OnlyG s t g peer c pushed ∧ t.me.pc = s.me.pc + 4 ∧ result t 1)) ∧
      (k.allowance = 0 →
        Gives (.qtryPush r a b o q) s (fun t => OnlyG s t g peer c c.mg ∧ t.dram = s.dram ∧ t.host = s.host ∧ t.me.pc = s.me.pc + 4 ∧ result t 0)) ∧
      (k.fill ≠ 0 →
        (inParty k.consumer s.me.who.peer s.me.who.cs →
          Gives (.pop r b o q) s (fun t => OnlyG s t g peer c popped.1 ∧ t.me.pc = s.me.pc + 4 ∧ result t popped.2)) ∧
        Gives (.qtryPop r b o q) s (fun t => OnlyG s t g peer c popped.1 ∧ t.me.pc = s.me.pc + 4 ∧ result t popped.2)) ∧
      (k.fill = 0 →
        Gives (.qtryPop r b o q) s (fun t => OnlyG s t g peer c c.mg ∧ t.dram = s.dram ∧ t.host = s.host ∧ t.me.pc = s.me.pc + 4 ∧
          result t 0x8000000000000000#64)) ∧
      (s.mayRelease → inParty k.producer s.me.who.peer s.me.who.cs → k.allowance = 0 →
        Gives (.push a b o q) s (fun t => t.me.pc = s.me.pc ∧ t.me.sch.wait = .push ⟨g, peer, q⟩ ∧
          (∃ c', t.crewOf g peer = some c' ∧ (q, s.me.who.id) ∈ c'.pushers) ∧ OnlyG s t g peer c c.mg ∧ keeps t)) ∧
      (inParty k.consumer s.me.who.peer s.me.who.cs → k.fill = 0 →
        Gives (.pop r b o q) s (fun t => t.me.pc = s.me.pc ∧ t.me.sch.wait = .pop ⟨g, peer, q⟩ ∧
          (∃ c', t.crewOf g peer = some c' ∧ (q, s.me.who.id) ∈ c'.poppers) ∧ OnlyG s t g peer c c.mg ∧ keeps t))) ∧
    (s.queueServes (s.queueId peer q) c = false → s.mayRelease → inParty k.producer s.me.who.peer s.me.who.cs →
      inParty k.consumer s.me.who.peer s.me.who.cs →
      ∀ i ∈ [Instr.push a b o q, .pop r b o q, .qtryPush r a b o q, .qtryPop r b o q],
        Gives i s (fun t => t.me.pc = s.me.pc ∧ t.me.sch.wait = .queue ⟨g, peer, q⟩ ∧
          (∃ c', t.crewOf g peer = some c' ∧ (q, s.me.who.id) ∈ c'.requests) ∧ OnlyG s t g peer c c.mg ∧ keeps t))

/-- R203, R206, R207: on the bytes of a queue, a push flips the phase bit of the tail slot, puts the handle there and moves the tail; and a pop
from a queue that held nothing before that push takes out the same handle with its slot and phase, and empties the queue again. -/
def Obligations.QueueHandsOver : Prop :=
  ∀ (m : Mem) (d h : Nat), SaneDesc d (readDesc m d) → (readDesc m d).allowance ≠ 0 → h < 2 ^ 32 →
    let k := readDesc m d
    let m' := pushInto m d h
    let k' : Desc := { k with allowance := k.allowance - 1, fill := k.fill + 1, tail := (k.tail + 1) % k.slots, phase := k.phase ^^^ 2 ^ k.tail }
    readDesc m' d = k' ∧ wordAt m' (k.base + k.tail * k.size) = h ∧
    (k.fill = 0 → k.head = k.tail → k.reserve = false →
      (popFrom m' d).2 = BitVec.ofNat 64 ((if k'.phase.testBit k.tail then 2 ^ 38 else 0) + k.tail * 2 ^ 32 + h) ∧
      readDesc (popFrom m' d).1 d = { k' with allowance := k.allowance, fill := 0, head := (k.head + 1) % k.slots })

/-- R208, R210: `qinfo` gives the fields of queue q, as the operation of the previous cycle left it, without changing it; an undefined queue reads as
all zero. -/
def Obligations.QueueInformation : Prop :=
  ∀ (s : State) (r b : Reg) (o : Bool) (q : Fin 32) (peer : Nat) (c : Crew),
    let k := c.descBefore q
    QueueAt s b o q peer c → Ready s [b, r] →
    (k.defined = false → Computes s (.qinfo r b o q) r 0) ∧
    (k.defined → k.allowance < 256 → k.fill < 256 → k.head < 64 → k.tail < 64 → k.slots < 128 →
      ∃ v : Word64, Computes s (.qinfo r b o q) r v ∧ (v.extractLsb' 0 8).toNat = k.allowance ∧ (v.extractLsb' 8 8).toNat = k.fill ∧
        (v.extractLsb' 16 6).toNat = k.head ∧ v.extractLsb' 22 2 = 0 ∧ (v.extractLsb' 24 6).toNat = k.tail ∧ v.extractLsb' 30 2 = 0 ∧
        (v.extractLsb' 32 7).toNat = k.slots ∧ v.getLsbD 39 ∧ v.getLsbD 40 = k.reserve ∧ v.extractLsb' 41 23 = 0)

/-- R192, R202, R204–R207, R209: where queue instructions trap. A peer outside the gang is Address with the queue's name, and a descriptor beyond G
Address with its offset; an undefined queue, or one whose party leaves the strand out, is Illegal Wait. `qdef` checks its value, the descriptor, the
region, the parties' bits, that each party names a strand, and that nobody is parked and the reserve is free, in the order of R205. Where the spec
leaves it open, this is the model's reading: log entries 17, 36 and 80. -/
def Obligations.QueueTraps : Prop :=
  ∀ (s : State) (a b r : Reg) (o : Bool) (q : Fin 32), CanTrap s → Ready s [a, b, r] → (o → b = 0) →
    let peer := if o then s.me.who.peer else (s.reg b).toNat % 32
    let name := BitVec.ofNat 64 (peer * 256 + q.val)
    (s.me.who.cores ≤ peer →
      ∀ i ∈ [Instr.push a b o q, .pop r b o q, .qtryPush r a b o q, .qtryPop r b o q, .qinfo r b o q], Traps s i 0x07 name) ∧
    (∀ c, QueueAt s b o q peer c →
      let k := c.descAt (c.descriptor q.val)
      (k.defined = false → ∀ i ∈ [Instr.push a b o q, .pop r b o q, .qtryPush r a b o q, .qtryPop r b o q], Traps s i 0x10 name) ∧
      (inParty k.producer s.me.who.peer s.me.who.cs = false → Traps s (.push a b o q) 0x10 name) ∧
      (inParty k.consumer s.me.who.peer s.me.who.cs = false → Traps s (.pop r b o q) 0x10 name)) ∧
    (∀ c, peer < s.me.who.cores → s.crewOf s.me.who.gang peer = some c → c.g * 1024 < c.descriptor q.val + 32 →
      ∀ i ∈ [Instr.push a b o q, .pop r b o q, .qtryPush r a b o q, .qtryPop r b o q, .qinfo r b o q],
        Traps s i 0x07 (BitVec.ofNat 64 (c.descriptor q.val))) ∧
    (∀ c, s.myCrew = some c →
      let v := s.reg a
      let slots := wordBits v 47 40
      let size := 4 * wordBits v 39 32
      let base := wordBits v 17 0
      let prod := wordBits (s.reg b) 31 0
      let cons := wordBits (s.reg b) 63 32
      let d := c.descriptor q.val
      let shaped := wordBits v 63 48 = 0 ∧ wordBits v 31 18 = 0 ∧ 2 ≤ slots ∧ slots ≤ 64 ∧ 4 ≤ size ∧ size ≤ 256 ∧ base % 4 = 0
      let inside := d + 32 ≤ c.g * 1024
      let room := base + (slots + 1) * size ≤ c.g * 1024
      let plain := prod < 2 ^ 22 ∧ cons < 2 ^ 22
      let named := s.me.who.namesSome prod ∧ s.me.who.namesSome cons
      let free := (∀ x ∈ c.pushers ++ c.poppers, x.1 ≠ q) ∧ (c.descAt d).reserve = false
      (¬ shaped → Traps s (.qdef a b q) 0x01 0) ∧
      (shaped → ¬ inside → Traps s (.qdef a b q) 0x07 (BitVec.ofNat 64 d)) ∧
      (shaped → inside → ¬ room → Traps s (.qdef a b q) 0x07 (BitVec.ofNat 64 base)) ∧
      (shaped → inside → room → ¬ plain → Traps s (.qdef a b q) 0x01 0) ∧
      (shaped → inside → room → plain → ¬ named → Traps s (.qdef a b q) 0x10 (BitVec.ofNat 64 (s.me.who.peer * 256 + q.val))) ∧
      (shaped → inside → room → plain → named → ¬ free → Traps s (.qdef a b q) 0x09 (BitVec.ofNat 64 d)))

/-- R215–R220: crew-scope locks. Granted, `rlock` adds a reader and `wlock` sets held; refused, the strand parks, a writer counted in wwait;
`runlock` and `wunlock` take a reader or held away and grant the waiters due. s(sd) gets the word before the change.
Where the spec leaves it open, this is the model's reading: log entry 81. -/
def Obligations.CrewLocks : Prop :=
  ∀ (s : State) (d a : Reg) (c : Crew),
    let g := s.me.who.gang
    let peer := s.me.who.peer
    let off := (s.reg a).toNat
    let w := wordAt c.mg off
    let mine := (c.lockWaiters.filter (fun p => p.off == off)).map (fun p => (p, p.writer))
    Ready s [d, a] → s.crewOf g peer = some c → off < c.g * 1024 → off % 4 = 0 → c.touchesDescriptor off 4 = false →
    s.wakingAt c 1 off 4 = false → (∀ x ∈ c.lockWaiters, x.strand ≠ s.me.who.id) →
    (LockWord.readable w →
      Gives (.rlock d a 1) s (fun t => OnlyG s t g peer c (c.mg.writeBytes off (leBytes 4 (w + 1))) ∧ t.reg d = (if d = 0 then 0 else BitVec.ofNat 64 w) ∧
        t.me.pc = s.me.pc + 4 ∧ (∀ r, r ≠ d → t.reg r = s.reg r))) ∧
    (LockWord.readable w = false →
      Gives (.rlock d a 1) s (fun t => OnlyG s t g peer c c.mg ∧ t.me.pc = s.me.pc ∧ t.me.sch.wait = .lock 0 ∧
        (∃ c', t.crewOf g peer = some c' ∧ c'.lockWaiters = c.lockWaiters ++ [⟨off, s.me.who.id, false, d⟩]) ∧ (∀ r, t.reg r = s.reg r))) ∧
    (LockWord.writable w →
      Gives (.wlock d a 1) s (fun t => OnlyG s t g peer c (c.mg.writeBytes off (leBytes 4 (w + 2 ^ 30))) ∧
        t.reg d = (if d = 0 then 0 else BitVec.ofNat 64 w) ∧ t.me.pc = s.me.pc + 4 ∧ (∀ r, r ≠ d → t.reg r = s.reg r))) ∧
    (LockWord.writable w = false →
      Gives (.wlock d a 1) s (fun t => OnlyG s t g peer c (c.mg.writeBytes off (leBytes 4 (LockWord.addWriter w))) ∧ t.me.pc = s.me.pc ∧
        t.me.sch.wait = .lock 0 ∧ (∃ c', t.crewOf g peer = some c' ∧ c'.lockWaiters = c.lockWaiters ++ [⟨off, s.me.who.id, true, d⟩]) ∧
        (∀ r, t.reg r = s.reg r))) ∧
    (s.mayRelease →
      Gives (.runlock d a 1) s (fun t =>
        OnlyG s t g peer c (c.mg.writeBytes off (leBytes 4 (LockWord.grants (LockWord.unread w) mine).1)) ∧
        t.reg d = (if d = 0 then 0 else BitVec.ofNat 64 w) ∧ t.me.pc = s.me.pc + 4 ∧ (∀ r, r ≠ d → t.reg r = s.reg r)) ∧
      Gives (.wunlock d a 1) s (fun t =>
        OnlyG s t g peer c (c.mg.writeBytes off (leBytes 4 (LockWord.grants (LockWord.unheld w) mine).1)) ∧
        t.reg d = (if d = 0 then 0 else BitVec.ofNat 64 w) ∧ t.me.pc = s.me.pc + 4 ∧ (∀ r, r ≠ d → t.reg r = s.reg r)))

/-- R216, R217: a device-scope lock instruction on a canonical, aligned global address sends one access to the word's home, takes a
waiting-table entry and waits for the answer; `runlock` and `wunlock` are releases.
Where the spec leaves it open, this is the model's reading: log entry 32. -/
def Obligations.DeviceLocks : Prop :=
  ∀ (s : State) (d a : Reg), Ready s [d, a] → canonical (s.reg a) → aperture (s.reg a) = false → (s.reg a).toNat % 4 = 0 → s.mayIssue →
    s.entryFree false → (∀ n, s.me.sch.wait ≠ .lock n ∧ s.me.sch.wait ≠ .unlock n) →
    (∀ p ∈ [(Instr.rlock d a 0, Kind.rlock), (.wlock d a 0, .wlock)],
      Gives p.1 s (fun t => t.access = s.access ++ [scalarAccess s d false true p.2 0 (s.reg a) 4 0 0 0x0D] ∧ t.me.pc = s.me.pc ∧
        t.me.sch.wait = .lock s.nextId ∧ (∀ r, t.reg r = s.reg r) ∧ SameBytes s t)) ∧
    (s.me.lanesReleased → ∀ p ∈ [(Instr.runlock d a 0, Kind.runlock), (.wunlock d a 0, .wunlock)],
      Gives p.1 s (fun t => t.access = s.access ++ [scalarAccess s d false true p.2 0 (s.reg a) 4 0 0 0x0E] ∧ t.me.pc = s.me.pc ∧
        t.me.sch.wait = .unlock s.nextId ∧ (∀ r, t.reg r = s.reg r) ∧ SameBytes s t))

/-! ## Engine commands -/

/-- R333, R344, R348, R353: an accepted `cpy` or `cpyg` of a role C strand captures its registers, its policy and its identity, joins the copy queue
and counts on its tag; nothing is copied yet. Where the spec leaves it open, this is the model's reading: log entries 35 and 103. -/
def Obligations.CopyAcceptance : Prop :=
  ∀ (s : State) (a b : Reg) (tag : BitVec 2) (lay : BitVec 3),
    let pol := (s.reg b).setWidth 32
    let k := s.core s.me.who.id.core
    let cmd := fun (kind : BitVec 2) (lay : BitVec 3) (n : Nat) =>
      ({ n := s.nextId, strand := s.me.who.id, gang := s.me.who.gang, peer := s.me.who.peer, kind, tag, lay, space := 0, regs := s.regsFrom a n
         lanes := [], pol, asid := s.me.sy.asid, sup := s.me.tr.sup, chunk := 0, run := 0, idx := 0, old := [], begun := false, bad := []
         state := .queued } : CopyCmd)
    s.me.who.role = 1 → RelaxedWord pol → (k.copies.filter (fun k => k.kind != 2)).length < 32 →
    ((Instr.cpy a b tag lay).wellFormed → Ready s (regNames a 4 ++ [b]) → (∀ p ∈ (copyOf false lay (s.regsFrom a 4)).operands, p.1 ≠ 7) →
      s.copyRefused (s.me.agent pol) (copyOf false lay (s.regsFrom a 4)) = none →
      Gives (.cpy a b tag lay) s (fun t => Accepts s t (Fin.ofNat 8 tag.toNat) { k with copies := k.copies ++ [cmd 0 lay 4] } ∧ t.me.pend = s.me.pend)) ∧
    ((Instr.cpyg a b tag).wellFormed → Ready s (regNames a 5 ++ [b]) → (∀ p ∈ (copyOf true 0 (s.regsFrom a 5)).operands, p.1 ≠ 7) →
      s.copyRefused (s.me.agent pol) (copyOf true 0 (s.regsFrom a 5)) = none →
      Gives (.cpyg a b tag) s (fun t => Accepts s t (Fin.ofNat 8 tag.toNat) { k with copies := k.copies ++ [cmd 1 0 5] } ∧ t.me.pend = s.me.pend))

/-- R363, R371–R380: an accepted matrix command of a role M strand captures its registers, makes its crew the owner of the engine and joins its
queue; nothing is computed yet.
Where the spec leaves it open, this is the model's reading: log entry 37. -/
def Obligations.MatrixAcceptance : Prop :=
  ∀ (s : State) (a b : Reg) (lay : BitVec 3) (c : Crew) (m : Word64),
    let pol := (s.reg b).setWidth 32
    let k := s.core s.me.who.id.core
    let l := loopOf (s.regsFrom a 4)
    let t' := storeOf (s.regsFrom a 4)
    s.me.who.role = 2 → MayOwn s → k.dme.queue.length < 16 → s.myCrew = some c →
    Gives .mswap s (fun t => Accepts s t 4 (withMatrix s .mswap 0 [] 0) ∧ t.me.pend = s.me.pend) ∧
    (Ready s [a, b] → (s.reg a).toNat < 2 ^ 18 → (s.reg a).toNat % 512 = 0 → MatrixMode.ok (s.reg b) →
      (s.reg a).toNat + MatrixMode.planeBytes (s.reg b) ≤ c.w * 1024 →
      Gives (.mlds a b) s (fun t => Accepts s t 4 (withMatrix s .mlds 0 [s.reg a, s.reg b] 0) ∧ t.me.pend = s.me.pend)) ∧
    (Ready s [a, b] → RelaxedWord pol →
      (∀ off rows, (s.reg a).toNat = (rows - 1) * 2 ^ 32 + off → 1 ≤ rows → rows ≤ 256 → off < 2 ^ 18 → off % 1024 = 0 →
        off + 1024 * rows ≤ c.exactBytes →
        Gives (.cclr a b) s (fun t => Accepts s t 4 (withMatrix s .cclr 0 [s.reg a] pol) ∧ t.me.pend = s.me.pend))) ∧
    (Ready s (regNames a 4 ++ [b]) → RelaxedWord pol →
      ((Instr.mloop a b).wellFormed → s.loopMode = some m → l.zero → 0 < l.steps → (2 ≤ l.rows → MatrixMode.ra m + MatrixMode.hb m ≤ l.pa) →
        l.misaligned = none → l.c + (l.steps - 1) * l.dc + 1024 * l.rows ≤ c.exactBytes →
        l.a + (l.steps - 1) * l.da + (l.rows - 1) * l.pa + MatrixMode.ra m + MatrixMode.hb m ≤ c.a * 1024 →
        (2 ≤ l.steps → l.w + (l.steps - 2) * l.dw + MatrixMode.planeBytes m ≤ c.w * 1024) →
        Gives (.mloop a b) s (fun t => Accepts s t 4 (withMatrix s .mloop 0 (s.regsFrom a 4) pol) ∧ t.me.pend = s.me.pend)) ∧
      ((Instr.cstore a b lay).wellFormed → t'.zero → t'.dt.isSome → t'.dsp ≠ 7 → t'.dsp ≠ 5 → t'.src % 4 = 0 →
        t'.src + (1024 * (t'.rows - 1) + 4 * t'.cols) ≤ c.exactBytes → s.storeRefused (s.me.agent pol) t' (t'.tile lay) = none →
        Gives (.cstore a b lay) s (fun t => Accepts s t 4 (withMatrix s .cstore lay (s.regsFrom a 4) pol) ∧ t.me.pend = s.me.pend)))

/-- R394–R399: an accepted analog command of a role M strand joins its core's queue; `xcal` makes s(sd) pending. -/
def Obligations.AnalogAcceptance : Prop :=
  ∀ (s : State) (d a : Reg) (n : Fin 4) (c : Crew),
    let k := s.core s.me.who.id.core
    let v := (s.reg a).toNat
    let m := mvmOf (s.regsFrom a 3)
    s.me.who.role = 2 → k.analog.length < 32 → s.myCrew = some c →
    Gives (.xtrim n) s (fun t => Accepts s t 5 (withAnalog s .xtrim n 0 []) ∧ t.me.pend = s.me.pend) ∧
    (Ready s [a] → ∀ keep first count ofs, keep ≤ 1 → 1 ≤ count → first + count ≤ 512 → ofs % 16 = 0 → ofs < 2 ^ 19 →
      v = keep * 2 ^ 63 + (count - 1) * 2 ^ 48 + first * 2 ^ 32 + ofs → ofs + 512 * count ≤ c.a * 1024 →
      Gives (.xprog a n) s (fun t => Accepts s t 5 (withAnalog s .xprog n 0 [s.reg a]) ∧ t.me.pend = s.me.pend)) ∧
    (Ready s (regNames a 3) → (Instr.xmvm a n).wellFormed → m.zero → m.r ≠ 7 → m.c0 + m.nc ≤ 512 → m.ia % 16 = 0 → m.ob % 8 = 0 →
      m.ia + m.n ≤ c.a * 1024 → m.ob + 8 * m.nc ≤ c.boundedBytes →
      Gives (.xmvm a n) s (fun t => Accepts s t 5 (withAnalog s .xmvm n 0 (s.regsFrom a 3)) ∧ t.me.pend = s.me.pend)) ∧
    (Ready s [d, a] → v ≤ 515 →
      Gives (.xcal d a n) s (fun t => Accepts s t 5 (withAnalog s .xcal n d [s.reg a]) ∧
        t.me.pend = s.me.pend ++ (if d = 0 then [] else [(d, .reply s.nextId)])))

/-- R419, R430, R431, R434: an accepted near-memory command of a role S strand joins its core's queue, after the strand's last `nfence`; `nfence`
itself only sets that mark.
Where the spec leaves it open, this is the model's reading: log entry 43. -/
def Obligations.NearAcceptance : Prop :=
  ∀ (s : State) (a b : Reg),
    let k := s.core s.me.who.id.core
    let pol := (s.reg b).setWidth 32
    let r := fun (i : Nat) => (s.regsFrom a 8).getD i 0
    s.me.who.role = 3 →
    Gives .nfence s (fun t => t.me.nearFence = s.nextId ∧ t.me.pc = s.me.pc + 4 ∧
      t = { s with me := { s.me with nearFence := s.nextId, pc := t.me.pc, sch := moved s.me.sch } } ∧ SameBytes s t) ∧
    (k.near.length < 16 → RelaxedWord pol →
      ((Instr.nlaunch a b).wellFormed → Ready s (regNames a 5 ++ [b]) → wordBits (r 1) 63 46 = 0 → wordBits (r 1) 31 8 = 0 → localVa (r 0) →
        (r 0).toNat % 4 = 0 →
        Gives (.nlaunch a b) s (fun t => Accepts s t 6 (withNear s .nlaunch (s.regsFrom a 5) pol) ∧ t.me.pend = s.me.pend)) ∧
      (∀ nsrc, 1 ≤ a.val → 1 ≤ nsrc → nsrc ≤ 8 → a.val + 3 + nsrc ≤ 64 → (wordBits (r 2) 34 32) + 1 = nsrc → Ready s (regNames a (3 + nsrc) ++ [b]) →
        wordBits (r 2) 63 41 = 0 → wordBits (r 2) 39 35 = 0 → 0 < wordBits (r 2) 31 0 → wordBits (r 2) 31 0 % 256 = 0 →
        (∀ v ∈ (s.regsFrom a (3 + nsrc)).drop 3, (v = r 0 ∨ rangesMeet (r 0).toNat (wordBits (r 2) 31 0) v.toNat (wordBits (r 2) 31 0) = false) ∧
          ¬ (v.toNat ≤ (r 1).toNat ∧ (r 1).toNat + 8 ≤ v.toNat + wordBits (r 2) 31 0) ∧ localVa v ∧ v.toNat % 256 = 0) →
        ¬ ((r 0).toNat ≤ (r 1).toNat ∧ (r 1).toNat + 8 ≤ (r 0).toNat + wordBits (r 2) 31 0) → localVa (r 0) → (r 0).toNat % 256 = 0 → localVa (r 1) →
        (r 1).toNat % 8 = 0 →
        Gives (.nred a b) s (fun t => Accepts s t 6 (withNear s .nred (s.regsFrom a (3 + nsrc)) pol) ∧ t.me.pend = s.me.pend)) ∧
      (Ready s (regNames a 3 ++ [b]) → 0 < (r 2).toNat → (r 2).toNat < 65536 → localVa (r 0) → (r 0).toNat % 65536 = 0 →
        ((Instr.nrowZero a b).wellFormed → r 1 = 0 →
          Gives (.nrowZero a b) s (fun t => Accepts s t 6 (withNear s .nrowZero (s.regsFrom a 3) pol) ∧ t.me.pend = s.me.pend)) ∧
        ((Instr.nrowCopy a b).wellFormed → localVa (r 1) → (r 1).toNat % 65536 = 0 →
          rangesMeet (r 0).toNat (65536 * (r 2).toNat) (r 1).toNat (65536 * (r 2).toNat) = false →
          (∀ i, i < (r 2).toNat → s.congruent ((r 0).toNat + 65536 * i) ((r 1).toNat + 65536 * i)) →
          Gives (.nrowCopy a b) s (fun t => Accepts s t 6 (withNear s .nrowCopy (s.regsFrom a 3) pol) ∧ t.me.pend = s.me.pend))))

/-- R152, R353–R355, R363: where engine commands trap or wait. A strand without the role takes the Role trap; a copy whose registers break a
condition of acceptance takes a Copy Fault with CPYFS written; a matrix command of a crew that does not own the engine waits while another crew owns
it or waits for it, before its values are examined; one of the owner traps on its values first, and a good one waits while another crew's waits.
Where the spec leaves it open, this is the model's reading: log entries 35 and 103. -/
def Obligations.EngineRefusals : Prop :=
  ∀ (s : State) (a b d : Reg) (n : Fin 4) (tag : BitVec 2) (lay : BitVec 3),
    let e := (s.core s.me.who.id.core).dme
    (CanTrap s →
      (s.me.who.role ≠ 1 → (Instr.cpy a b tag lay).wellFormed → Traps s (.cpy a b tag lay) 0x03 0) ∧
      (s.me.who.role ≠ 1 → (Instr.cpyg a b tag).wellFormed → Traps s (.cpyg a b tag) 0x03 0) ∧
      (s.me.who.role ≠ 2 → ∀ i ∈ [Instr.mlds a b, .mswap, .mloop a b, .cclr a b, .cstore a b lay, .xprog a n, .xmvm a n, .xtrim n, .xcal d a n],
        i.wellFormed → Traps s i 0x03 0) ∧
      (s.me.who.role ≠ 3 → ∀ i ∈ [Instr.nlaunch a b, .nrowZero a b, .nrowCopy a b, .nfence], i.wellFormed → Traps s i 0x03 0) ∧
      (s.me.who.role ≠ 3 → 1 ≤ a.val → a.val + 4 ≤ 64 → Traps s (.nred a b) 0x03 0)) ∧
    (∀ cause ea, CanTrap s → s.me.who.role = 1 → RelaxedWord ((s.reg b).setWidth 32) →
      ∀ e ∈ [(Instr.cpy a b tag lay, 4, copyOf false lay (s.regsFrom a 4), 0), (.cpyg a b tag, 5, copyOf true 0 (s.regsFrom a 5), 1)],
      e.1.wellFormed → Ready s (regNames a e.2.1 ++ [b]) → (∀ p ∈ e.2.2.1.operands, p.1 ≠ 7) →
      s.copyRefused (s.me.agent ((s.reg b).setWidth 32)) e.2.2.1 = some (.copy cause ea) →
      Gives e.1 s (fun t => t.me.en.cpyfs.getLsbD 63 ∧ wordBits t.me.en.cpyfs 55 48 = cause.toNat ∧
        wordBits t.me.en.cpyfs 47 46 = tag.toNat ∧ wordBits t.me.en.cpyfs 45 44 = e.2.2.2 ∧ t.me.en.cpyck = 0 ∧
        Trapped { s with me := { s.me with en := t.me.en } } t 0x21 ea s.me.pc)) ∧
    (s.me.who.role = 2 → e.owner ≠ some s.me.crew → (e.owner ≠ none ∨ e.waiting ≠ []) →
      ∀ i ∈ [(Instr.mlds a b, [a, b]), (.mswap, []), (.cclr a b, [a, b]), (.mloop a b, regNames a 4 ++ [b]), (.cstore a b lay, regNames a 4 ++ [b])],
        i.1.wellFormed → Ready s i.2 →
        Gives i.1 s (fun t => t.me.pc = s.me.pc ∧ t.me.ops = s.me.ops ∧ ⟨s.me.crew, s.me.who.id⟩ ∈ (t.core s.me.who.id.core).dme.waiting ∧
          (t.core s.me.who.id.core).dme.queue = e.queue ∧ SameBytes s t)) ∧
    (s.me.who.role = 2 → Ready s [a, b] →
      (e.owner = some s.me.crew →
        (CanTrap s → wordBits (s.reg a) 63 18 ≠ 0 → Traps s (.mlds a b) 0x01 0) ∧
        (e.waiting ≠ [] → e.granted ≠ some s.me.who.id → Gives .mswap s (fun t => t = s.wait .none))))

/-- R340, R315: `waitc` waits until the lane queue is empty and at most n operations of its class are outstanding; complete operations of a class
retire in order, and their flags accrue in MSTAT (matrix) and NSTAT (near memory). -/
def Obligations.CounterWaits : Prop :=
  ∀ (s : State) (n : BitVec 9) (c : BitVec 4) (t : StrandId) (cls : Fin 8),
    ((Instr.waitc n c).wellFormed → s.me.lanesEmpty = false → Gives (.waitc n c) s (fun t => t = s.wait .none)) ∧
    ((Instr.waitc n c).wellFormed → s.me.lanesEmpty →
      ((s.me.ops.filter (fun o => o.cls.val == c.toNat)).length ≤ n.toNat → Gives (.waitc n c) s (fun t => t.me.pc = s.me.pc + 4 ∧ OnlyPc s t)) ∧
      (n.toNat < (s.me.ops.filter (fun o => o.cls.val == c.toNat)).length →
        Gives (.waitc n c) s (fun t => ∃ k : Fin 8, k.val = c.toNat ∧ t = s.wait (.counter k n.toNat)))) ∧
    (s.me.isId t → ∀ pre post : List EngineOp, s.me.ops.filter (fun o => o.cls == cls) = pre ++ post → (∀ o ∈ pre, o.done) →
      (∀ o, post.head? = some o → o.done = false) →
      Gives (.operationRetire t cls) s (fun u => (∀ o, o ∈ u.me.ops ↔ o ∈ s.me.ops ∧ o ∉ pre) ∧
        u.me.en.mstat = (if cls = 4 then s.me.en.mstat ||| pre.foldl (fun (f : BitVec 5) o => f ||| o.flags) 0 else s.me.en.mstat) ∧
        u.me.en.nstat = (if cls = 6 then s.me.en.nstat ||| pre.foldl (fun (f : BitVec 5) o => f ||| o.flags) 0 else s.me.en.nstat) ∧
        u.me.pc = s.me.pc ∧ (∀ r, u.reg r = s.reg r) ∧ SameBytes s u))

/-! ## System registers, traps and page operations -/

/-- R74, R176, R178–R183, R202, R340, R370, R454, R474, R533: `gets` gives each system register the value its fields of the state have, and changes
nothing else. A read of FLAGS waits for the lane queue.
Where the spec leaves it open, this is the model's reading: log entry 26. -/
def Obligations.SystemRegisterRead : Prop :=
  ∀ (s : State) (d : Reg), Ready s [d] →
    let x := s.me
    let w := x.who
    let low := fun (v : Mask) (p : Nat) => ((v.extractLsb' (32 * p) 32).setWidth 64 : Word64)
    (∀ p ∈ [((0x001 : BitVec 12), x.sy.lcb), (0x002, x.sy.asid.setWidth 64), (0x008, x.tr.tvec), (0x009, x.tr.ecause.setWidth 64),
        (0x00A, x.tr.eaddr), (0x00B, x.tr.espc), (0x00C, x.tr.elpc), (0x012, x.sy.blkt.setWidth 64), (0x014, x.tr.eem[0]), (0x015, x.tr.eem[1]),
        (0x016, x.tr.eem[2]), (0x018, low x.tr.emask 0), (0x019, low x.tr.emask 1), (0x01A, low x.tr.emask 2), (0x01C, low x.tr.edone 0),
        (0x01D, low x.tr.edone 1), (0x01E, low x.tr.edone 2), (0x034, x.en.cpyfs), (0x035, x.en.cpyck), (0x039, x.en.mfs), (0x03A, x.en.xfs),
        (0x03C, x.en.nstat.setWidth 64), (0x03D, x.en.nfs), (0x041, x.sy.seed.setWidth 64), (0x004, x.who.gang.block &&& ~~~0x7F#64)],
      Computes s (.gets d p.1) d p.2) ∧
    (∀ i : Fin 4, x.tr.sup → Computes s (.gets d (0x0F0 + BitVec.ofNat 12 i.val)) d x.tr.scratch[i]) ∧
    (x.lanesEmpty → Computes s (.flagsRead d) d (x.sy.flags.setWidth 64) ∧ Computes s (.gets d 0x040) d (x.sy.flags.setWidth 64)) ∧
    (x.lanesEmpty = false → Gives (.flagsRead d) s (fun t => t = s.wait .none) ∧ Gives (.gets d 0x040) s (fun t => t = s.wait .none)) ∧
    (∃ v, Computes s (.gets d 0x005) d v ∧ v.extractLsb' 0 16 = BitVec.ofNat 16 w.gx ∧ v.extractLsb' 16 16 = BitVec.ofNat 16 w.gy ∧
      v.extractLsb' 32 32 = BitVec.ofNat 32 w.gang.index) ∧
    (∃ v, Computes s (.gets d 0x006) d v ∧ v.extractLsb' 0 3 = BitVec.ofNat 3 w.id.core.x.val ∧ v.extractLsb' 3 2 = BitVec.ofNat 2 w.id.core.y.val ∧
      v.extractLsb' 5 3 = BitVec.ofNat 3 w.id.core.die.val ∧ v.extractLsb' 8 3 = BitVec.ofNat 3 (w.peer % 2 ^ w.lw) ∧
      v.extractLsb' 11 2 = BitVec.ofNat 2 (w.peer / 2 ^ w.lw) ∧ v.extractLsb' 13 5 = BitVec.ofNat 5 w.peer ∧ v.extractLsb' 18 2 = BitVec.ofNat 2 w.lw ∧
      v.extractLsb' 20 2 = BitVec.ofNat 2 w.lh ∧ v.extractLsb' 22 42 = 0) ∧
    (∃ v, Computes s (.gets d 0x007) d v ∧ v.extractLsb' 0 5 = BitVec.ofNat 5 w.id.rs.val ∧ v.extractLsb' 5 4 = BitVec.ofNat 4 w.cs ∧
      v.extractLsb' 9 4 = BitVec.ofNat 4 w.crewn ∧ v.extractLsb' 13 2 = w.role ∧ v.extractLsb' 15 33 = 0 ∧
      (v.extractLsb' 48 16).toNat = min x.sch.wick 65535) ∧
    (∃ v, Computes s (.gets d 0x010) d v ∧ v.extractLsb' 0 2 = x.sy.prio ∧ v.getLsbD 2 = (x.sch.paused != 0) ∧ v.extractLsb' 3 13 = 0 ∧
      v.extractLsb' 16 16 = x.sch.paused ∧ v.extractLsb' 32 32 = 0) ∧
    (∃ v, Computes s (.gets d 0x011) d v ∧ v.extractLsb' 0 16 = x.sy.lo ∧ v.extractLsb' 16 32 = x.sy.hi ∧ v.extractLsb' 48 15 = 0 ∧
      v.getLsbD 63 = x.sy.hien) ∧
    (∀ c, s.myCrew = some c → Computes s (.gets d 0x020) d (BitVec.ofNat 64 (1024 * c.qbase.toNat))) ∧
    (∀ p ∈ [((0x030 : BitVec 12), (0 : Nat)), (0x031, 4)], ∃ v, Computes s (.gets d p.1) d v ∧
      ∀ k, k < 4 → v.extractLsb' (16 * k) 16 = BitVec.ofNat 16 (x.ops.filter (fun o => o.cls.val == p.2 + k)).length) ∧
    (∃ v, Computes s (.gets d 0x038) d v ∧ v.extractLsb' 0 5 = x.en.mstat ∧ v.extractLsb' 5 58 = 0 ∧
      v.getLsbD 63 = ((s.core w.id.core).dme.owner == some x.crew)) ∧
    (∀ k : Fin 8, Computes s (.gets d (0x060 + BitVec.ofNat 12 k.val)) d (Table.get s.evsel (w.id.core.die.val, k.val) 0) ∧
      Computes s (.gets d (0x068 + BitVec.ofNat 12 k.val)) d (Table.get s.evcnt (w.id.core.die.val, k.val) 0)) ∧
    (∃ v, Computes s (.gets d 0x003) d v ∧ v.getLsbD 0 = x.tr.sup ∧ v.getLsbD 1 = x.tr.lane ∧
      v.getLsbD 2 = (!x.faults.isEmpty || x.sch.starving) ∧ (v.extractLsb' 8 4).toNat = x.replay.length % 16 ∧
      (v.extractLsb' 12 4).toNat = x.tr.held % 16)

/-- R66, R176, R202, R454, R474: a write takes the bits that the mode may write and keeps the others, of that register alone; a write of RNGSEED
sets every generator. The rows with a mnemonic of their own write the same registers. -/
def Obligations.SystemRegisterWrite : Prop :=
  ∀ (s : State) (a : Reg) (r : BitVec 12) (old : Word64), Ready s [a] → s.me.lanesEmpty → s.sysRead r.toNat = some old → s.myCrew.isSome →
    let mask := writableBits s.me.tr.sup r.toNat
    let written := fun (i : Instr) => Gives i s (fun t =>
      t.sysRead r.toNat = some ((old &&& ~~~mask) ||| (s.reg a &&& mask)) ∧ (∀ k, k ≠ r.toNat → t.sysRead k = s.sysRead k) ∧
      (r = 0x041 → t.me.lf.gen = seedGen ((s.reg a).setWidth 32)) ∧ (∀ q, t.reg q = s.reg q) ∧ t.me.pc = s.me.pc + 4 ∧ SameBytes s t)
    (s.me.tr.sup ∨ userBits r.toNat ≠ 0) →
    written (.sets a r) ∧ (r = 0x041 → written (.rngseedWrite a)) ∧ (r = 0x040 → written (.flagsWrite a)) ∧ (r = 0x001 → written (.lcbWrite a)) ∧
    (r = 0x020 → written (.qbaseWrite a)) ∧ (r = 0x010 → written (.prioWrite a)) ∧ (r = 0x008 → written (.tvecWrite a))

/-- R449, R451, R452, R475: `trap` takes Host Call with its code as EADDR and resumes at the next instruction; `brk` takes Break and resumes at
itself. A trap without a vector, or taken in supervisor mode, is fatal: the cause registers are written, no handler is entered, every strand
of the gang stops, the gang ends, and the host is interrupted, behind the fatal record where the host must first translate its page.
Where the spec leaves it open, this is the model's reading: log entry 88. -/
def Obligations.SoftwareTraps : Prop :=
  ∀ (s : State) (c : BitVec 16),
    (CanTrap s →
      Gives (.trap c) s (fun t => Trapped s t 0x31 (c.setWidth 64) (s.me.pc + 4)) ∧
      Gives (.brk c) s (fun t => Trapped s t 0x30 (c.setWidth 64) s.me.pc)) ∧
    (s.me.laneBusy = false → s.me.live → (s.me.tr.tvec = 0 ∨ s.me.tr.sup) →
      ∀ e ∈ [(Instr.trap c, (0x31 : BitVec 8), s.me.pc + 4), (.brk c, 0x30, s.me.pc)],
        Gives e.1 s (fun t => GangStopped s t ∧ t.me.tr.ecause = e.2.1 ∧ t.me.tr.eaddr = c.setWidth 64 ∧ t.me.tr.espc = e.2.2))

/-- R458, R465: `sret` in supervisor mode with an empty lane queue restores em0–em2, leaves supervisor mode, brings the held marks and runs back
and performs the replay list again, and goes to ESPC; the generators of the held instruction's head stay set aside until it executes (R67). It
waits for the handler's runs, and in user mode it raises Privilege. It clears the valid bit of the status register in which the engine fault that it
serves stands, and no other; after a trap that is no engine fault it clears none.
Where the spec leaves it open, this is the model's reading: log entries 25, 45 and 46. -/
def Obligations.ReturnFromTrap : Prop :=
  ∀ (s : State),
    (s.me.tr.sup → s.me.lanesEmpty →
      Gives .sret s (fun t => t.me.pc = s.me.tr.espc ∧ t.me.tr.sup = false ∧
        t.me.s[56] = s.me.tr.eem[0] ∧ t.me.s[57] = s.me.tr.eem[1] ∧ t.me.s[58] = s.me.tr.eem[2] ∧
        (∀ r : Reg, r ≠ 56 → r ≠ 57 → r ≠ 58 → t.reg r = s.reg r) ∧
        t.me.lq.runs.map (fun r => (r.id, r.words, r.next)) = s.me.lq.held.map (fun r => (r.id, r.words, r.next)) ∧
        (∀ p, p ∈ t.me.pend ↔ p ∈ s.me.pend ∨ p ∈ s.me.asidePend) ∧ t.me.replay = [] ∧ t.me.behind = [] ∧
        t.access = s.me.replay.map Access.again ++ s.me.behind.map Access.again ++ s.access ∧
        t.me.lf = s.me.lf ∧ t.me.lq.headGen = s.me.lq.headGen ∧
        t.me.tr = { s.me.tr with sup := false } ∧ SameBytes s t)) ∧
    (s.me.tr.sup → s.me.lanesEmpty →
      let e := s.me.en
      let low := fun (v : Word64) => v &&& 0x7FFFFFFFFFFFFFFF#64
      let engine := s.me.tr.ecause = 0x18 ∨ s.me.tr.ecause = 0x19 ∨ s.me.tr.ecause = 0x20 ∨ s.me.tr.ecause = 0x21
      (¬ engine → Gives .sret s (fun t => t.me.en = e)) ∧
      (∀ f o, engine → s.me.serving = some f → s.me.ops.find? (fun p => p.n == f.op) = some o → Gives .sret s (fun t => t.me.serving = none ∧
        t.me.en = (if f.cause = 0x21 then (if o.cls.val < 4 then { e with cpyfs := low e.cpyfs } else if o.cls = 4 then { e with mfs := low e.mfs } else e)
          else if f.cause = 0x20 then { e with nfs := low e.nfs } else { e with xfs := low e.xfs })))) ∧
    (s.me.tr.sup → s.me.lanesEmpty = false → Gives .sret s (fun t => t = s.wait .none)) ∧
    (CanTrap s → Traps s .sret 0x05 0)

/-- R21, R184, R476: `halt` stops the strand once its lane queue is empty and nothing of it is outstanding, and waits until then; in supervisor mode it
first discards what the trap left: held runs, the replay list, deferred faults and faulted engine operations with their marks. `halt.gang` in
supervisor mode stops every strand of the gang and interrupts the host, and raises Privilege in user mode.
Where the spec leaves it open, this is the model's reading: log entries 47 and 88. -/
def Obligations.Halting : Prop :=
  ∀ (s : State),
    (s.me.tr.sup = false → s.me.lanesEmpty → s.me.pend = [] → s.outstanding = 0 →
      Gives .halt s (fun t => t.me.sch.halted ∧ t.me.pc = s.me.pc ∧ (∀ r, t.reg r = s.reg r) ∧
        t = { s with me := { s.me with sch := { s.me.sch with halted := true, wait := .halted, issuedNow := true } } } ∧ SameBytes s t)) ∧
    (s.me.tr.sup = false → (s.me.lanesEmpty = false ∨ s.me.pend ≠ [] ∨ s.outstanding ≠ 0) → Gives .halt s (fun t => t = s.wait .halted)) ∧
    (s.me.tr.sup →
      let x := s.me
      let gone := x.faultedOps
      let lost := fun (n : Nat) => n ∈ gone ∨ ∃ a ∈ x.replay ++ x.behind, a.n = n
      Gives .halt s (fun t => t.me.lq = { x.lq with held := [], resume := none, delivered := none, headGen := none } ∧ t.me.replay = [] ∧ t.me.behind = [] ∧
        t.me.asidePend = [] ∧ t.me.faults = [] ∧ t.me.serving = none ∧ (∀ o, o ∈ t.me.ops ↔ o ∈ x.ops ∧ o.n ∉ gone) ∧
        (∀ p, p ∈ t.me.pend ↔ p ∈ x.pend ∧ ∀ n, p.2 = .reply n → ¬ lost n) ∧ t.me.pc = x.pc ∧ (∀ r, t.reg r = s.reg r) ∧ SameBytes s t ∧
        t.me.sch.wait = .halted ∧
        (x.lanesEmpty → (∀ p ∈ x.pend, ∃ n, p.2 = .reply n ∧ lost n) → s.outstanding = 0 → t.me.sch.halted) ∧
        (x.lanesEmpty = false ∨ (∃ p ∈ x.pend, ∀ n, p.2 = .reply n → ¬ lost n) ∨ s.outstanding ≠ 0 → t.me.sch.halted = x.sch.halted))) ∧
    (s.me.tr.sup → s.me.live → Gives .haltGang s (fun t => GangStopped s t)) ∧
    (CanTrap s → Traps s .haltGang 0x05 0)

/-- R468, R470, R472, R473, R502, R503: in the mode that may run them and with operands that raise no trap, the page and cache operations and
`flaunch` hold a waiting-table entry, make s(sd) pending, and go on: `mapft`, `pdisc`, `ccinv` and `flaunch` with their result, `tlbinv` with a
shootdown to come. A page that `mapft` is not to map gives its code and takes no frame; a frame taken for an empty entry is cleared, and the entry
names it with the template's bits. Where the spec leaves it open, this is the model's reading: log entries 48, 49, 50 and 58. -/
def Obligations.PageOperations : Prop :=
  ∀ (s : State) (d a b : Reg),
    let va := s.reg a
    let n := (s.reg b).toNat
    let asid := s.me.sy.asid
    let op := fun (u : State) (data : Word64) (asid' : BitVec 16) (mode : Word64) (st : Status) =>
      ({ scalarAccess u d false true .operation 0 va 8 data mode 0 with asid := asid', status := st } : Access)
    (Ready s [d, a, b] → s.entryFree false → plainAddress va →
    (s.me.tr.sup → n % 8 = 0 → s.touchWaits asid (va.toNat / 65536 * 65536) = false →
      let own := s.gauWriteBack s.me.who.id.core.die true (fun l => l.is s.me.who.gang (n / 256) asid)
      let r := own.firstTouch asid (va.toNat / 65536 * 65536) (s.reg b)
      let u := r.1.l1Kill s.me.who.id.core asid n
      Gives (.mapft d a b) s (fun t => Issues u t (op u 0 asid 0 (.done r.2)) (some d))) ∧
    (0 < n → n ≤ 65535 → va.toNat % 65536 = 0 →
      (∀ i c, i < n → s.discardOf asid s.me.tr.sup va.toNat (va.toNat + 65536 * n) (va.toNat + 65536 * i) ≠ .trap c) →
      s.nearCovers asid va.toNat (va.toNat + 65536 * n) = false →
      let r := s.discardPages asid s.me.tr.sup va.toNat (va.toNat + 65536 * n) 0 ((List.range n).map (fun i => va.toNat + 65536 * i))
      Gives (.pdisc d a b) s (fun t => Issues r.1 t (op r.1 0 asid 0 (.done (BitVec.ofNat 64 r.2))) (some d))) ∧
    (s.me.tr.sup → va.toNat % 65536 = 0 → 0 < n → n < 2 ^ 32 →
      Gives (.tlbinvOwn d a b) s (fun t => Issues s t (op s (s.reg b) asid 1 .issued) (some d))) ∧
    (∀ k p, s.me.tr.sup → va.toNat % 65536 = 0 → 0 < p → p < 2 ^ 32 → k < 65536 → n = k * 2 ^ 32 + p →
      Gives (.tlbinvAsid d a b) s (fun t => Issues s t (op s (BitVec.ofNat 64 p) (BitVec.ofNat 16 k) 2 .issued) (some d))) ∧
    (s.me.tr.sup → va = 0 → n = 0 → Gives (.tlbinvAll d a b) s (fun t => Issues s t (op s 0 asid 3 .issued) (some d))) ∧
    (∀ k, s.me.tr.sup → va = 0 → k < 65536 → n = k * 2 ^ 32 →
      Gives (.tlbinvAllasid d a b) s (fun t => Issues s t (op s 0 (BitVec.ofNat 16 k) 4 .issued) (some d))) ∧
    (256 ≤ n → n ≤ 2 ^ 40 → n % 256 = 0 → va.toNat % 256 = 0 → plainAddress (va + s.reg b - 1) →
      let u := fun (wb inv : Bool) => s.maintain wb inv va.toNat (va.toNat + n)
      Gives (.ccinvWb d a b) s (fun t => Issues (u true false) t (op (u true false) 0 asid 0 (.done 0)) (some d)) ∧
      (s.me.tr.sup → Gives (.ccinvInv d a b) s (fun t => Issues (u false true) t (op (u false true) 0 asid 0 (.done 0)) (some d))) ∧
      Gives (.ccinvWbinv d a b) s (fun t => Issues (u true true) t (op (u true true) 0 asid 0 (.done 0)) (some d))) ∧
    (∀ u, va.toNat < 2 ^ 56 → va.toNat % 128 = 0 → s.mayRelease → s.listReady = (u, true) →
      let r := (u.releaseAt u.me.who.id.core.die u.me.who.gang 3).append va u.me.sy.asid
      Gives (.flaunch d a) s (fun t => t.me.pc = r.1.me.pc + 4 ∧
        ∃ x, t.access = r.1.access ++ [x] ∧ x.status = .done (BitVec.ofNat 64 r.2) ∧ x.kind = .operation ∧ (d ≠ 0 → t.me.isPending d)))) ∧
    (∀ (u : State) (asid : BitVec 16) (page : Nat) (pool : Word64) (code chip a f template : Nat),
        (s.firstTouchSlot asid page = .error code → s.firstTouch asid page pool = (s, BitVec.ofNat 64 code)) ∧
        (s.firstTouchSlot asid page = .ok (chip, a, false) → s.takeFrame asid pool = (u, .error code) →
          s.firstTouch asid page pool = (u, BitVec.ofNat 64 code)) ∧
        (s.firstTouchSlot asid page = .ok (chip, a, false) → s.takeFrame asid pool = (u, .ok (f, template)) → f % u.span = 0 →
          f + u.span ≤ framesPerChip → template % 2 = 0 → template < 32 →
          let r := s.firstTouch asid page pool
          r.2 = BitVec.ofNat 64 (f * 256) ∧ r.1.entryRead chip a = BitVec.ofNat 64 (2 ^ 62 + f * 4096 + template + 1) ∧
          (∀ c ∈ u.ddb.chips, ∀ i, i < 4096 * u.span → (∀ j, j < 8 → dramKey chip a + j ≠ dramKey c (4096 * f) + i) →
            r.1.dram.read (dramKey c (4096 * f) + i) = 0)))

/-- R82, R176, R453, R468, R470, R472–R474, R503: where system and page operations trap. A register number that no chapter assigns is Undefined; in
user mode a write of a register without user bits, a read of SCRATCH, `mapft`, `tlbinv` and `ccinv.inv` raise Privilege; an address that is not
canonical or reaches the aperture is Address, and one off its alignment Misaligned.
Where the spec leaves it open, this is the model's reading: log entry 50. -/
def Obligations.SystemTraps : Prop :=
  ∀ (s : State) (d a b : Reg) (r : BitVec 12), CanTrap s →
    let va := s.reg a
    let n := (s.reg b).toNat
    (s.sysRead r.toNat = none → Traps s (.gets d r) 0x01 0 ∧ Traps s (.sets d r) 0x01 0) ∧
    (s.sysRead r.toNat ≠ none → userBits r.toNat = 0 → Traps s (.sets d r) 0x05 (r.setWidth 64)) ∧
    (s.sysRead r.toNat ≠ none → 0x0F0 ≤ r.toNat → Traps s (.gets d r) 0x05 (r.setWidth 64)) ∧
    Traps s (.prioWrite d) 0x05 0x010 ∧ Traps s (.tvecWrite d) 0x05 0x008 ∧
    (∀ i ∈ [Instr.mapft d a b, .tlbinvOwn d a b, .tlbinvAsid d a b, .tlbinvAll d a b, .tlbinvAllasid d a b, .ccinvInv d a b],
      Traps s i 0x05 0) ∧
    (Ready s [d, a, b] →
      (n = 0 ∨ 65535 < n → Traps s (.pdisc d a b) 0x01 0) ∧
      (0 < n → n ≤ 65535 → plainAddress va = false → Traps s (.pdisc d a b) 0x07 va) ∧
      (0 < n → n ≤ 65535 → plainAddress va → va.toNat % 65536 ≠ 0 → Traps s (.pdisc d a b) 0x06 va) ∧
      (n < 256 ∨ 2 ^ 40 < n → Traps s (.ccinvWb d a b) 0x01 0 ∧ Traps s (.ccinvWbinv d a b) 0x01 0) ∧
      (2 ^ 56 ≤ va.toNat → Traps s (.flaunch d a) 0x07 va) ∧
      (va.toNat < 2 ^ 56 → va.toNat % 128 ≠ 0 → Traps s (.flaunch d a) 0x06 va))

/-! ## The lane stream -/

/-- R69, R71, R111, R115–R118: floating-point lane instructions. Each lane that is active and not done gets the rounded result of its operands, the
lanes' flags accrue, and nothing else changes; the packed forms do so with two 16-bit elements. Where the spec leaves it open, this is the model's
reading: log entries 20, 21 and 23. -/
def Obligations.LaneFloatingPoint : Prop :=
  ∀ (s : State) (f : LaneFields),
    let d := fmt f.ty
    let r := fun (l : Lane) => s.me.rounding f 0 l
    let r' := fun (l : Lane) => s.me.rounding f 1 l
    let a := fun (l : Lane) => s.me.elem f f.ty f.a l
    let b := fun (l : Lane) => s.me.elem f f.ty f.b l
    let c := fun (l : Lane) => s.me.elem f f.ty (operandC f) l
    let half := fun (o : Opnd) (l : Lane) => s.me.word f o l
    let packable : List (Instr × (Arith.Rounding → Nat → Nat → Nat → Arith.Res)) :=
      [(.vadd f, fun r x y _ => Arith.add d r (d.val x) (d.val y)), (.vsub f, fun r x y _ => Arith.sub d r (d.val x) (d.val y)),
       (.vmul f, fun r x y _ => Arith.mul d r (d.val x) (d.val y)), (.vfma f, fun r x y z => Arith.fma d r (d.val x) (d.val y) (d.val z)),
       (.vmin f, fun _ x y _ => Arith.minMax d false x y), (.vmax f, fun _ x y _ => Arith.minMax d true x y),
       (.vabs f, fun _ x _ _ => (x % 2 ^ (f.ty.width - 1), 0)), (.vneg f, fun _ x _ _ => (x ^^^ 2 ^ (f.ty.width - 1), 0))]
    (∀ p ∈ packable, LaneReady s p.1 →
      (f.pk = false → LaneGives s p.1 f f.ty.wide 1 (fun l => eltRes f.ty (p.2 (r l) (a l) (b l) (c l)))) ∧
      (f.pk → LaneGives s p.1 f false 2 (fun l => packedRes
        (p.2 (r l) (half f.a l % 65536) (half f.b l % 65536) (half (operandC f) l % 65536))
        (p.2 (r' l) (half f.a l / 65536) (half f.b l / 65536) (half (operandC f) l / 65536))))) ∧
    (∀ p ∈ [(Instr.vdiv f, fun (l : Lane) => Arith.div d (r l) (d.val (a l)) (d.val (b l))), (.vsqrt f, fun l => Arith.sqrt d (r l) (d.val (a l))),
        (.vrcp f, fun l => Arith.rcp d (r l) (d.val (a l))), (.vrsq f, fun l => Arith.rsq d (r l) (d.val (a l))),
        (.vexp2 f, fun l => Arith.exp2 d (r l) (d.val (a l))), (.vlog2 f, fun l => Arith.log2 d (r l) (d.val (a l))),
        (.vrnd f, fun l => Arith.roundIntegral d (r l) (a l))],
      LaneReady s p.1 → LaneGives s p.1 f f.ty.wide 1 (fun l => eltRes f.ty (p.2 l)))

/-- R47, R119–R125: integer and logic lane instructions, moves, selects and classes. Results are those of exact integers narrowed to
the element (clamped where the form saturates); no flag is raised and nothing else changes. `vcmp` writes the comparisons of the active lanes to a
mask register and no other bit; `vlane` gives lane j of A as a scalar, 0 beyond lane 95. -/
def Obligations.LaneInteger : Prop :=
  ∀ (s : State) (f : LaneFields),
    let n := f.ty.width
    let a := fun (l : Lane) => s.me.elem f f.ty f.a l
    let b := fun (l : Lane) => s.me.elem f f.ty f.b l
    let x := fun (l : Lane) => Arith.intVal f.ty (a l)
    let y := fun (l : Lane) => Arith.intVal f.ty (b l)
    let z := fun (l : Lane) => Arith.intVal f.ty (s.me.elem f f.ty (operandC f) l)
    let exact := fun (v : Int) => Arith.intCode f.ty v
    let sat := fun (v : Int) => Arith.intResult f.ty f.sat v
    let act := s.me.todo f.sel
    (∀ p ∈ [(Instr.viadd f, fun (l : Lane) => sat (x l + y l)), (.visub f, fun l => sat (x l - y l)), (.vimul f, fun l => sat (x l * y l)),
        (.vimulh f, fun l => exact (x l * y l / 2 ^ n)), (.vimad f, fun l => sat (x l * y l + z l)), (.vimin f, fun l => exact (min (x l) (y l))),
        (.vimax f, fun l => exact (max (x l) (y l))), (.viabs f, fun l => sat (x l).natAbs),
        (.vand f, fun l => (a l &&& b l) % 2 ^ n), (.vor f, fun l => (a l ||| b l) % 2 ^ n), (.vxor f, fun l => (a l ^^^ b l) % 2 ^ n),
        (.vnot f, fun l => (2 ^ n - 1 - a l) % 2 ^ n), (.vshl f, fun l => a l * 2 ^ (b l % n) % 2 ^ n),
        (.vshr f, fun l => exact (x l / 2 ^ (b l % n))), (.vpopc f, fun l => (List.range n).countP (fun i => (a l).testBit i) % 2 ^ n),
        (.vclz f, fun l => (if a l = 0 then n else n - 1 - Nat.log2 (a l)) % 2 ^ n), (.vmov f, a),
        (.vsel f, fun l => s.me.elem f f.ty (if s.me.lf.m[f.maskNo].getLsbD l.val then f.a else f.b) l)],
      LaneReady s p.1 → LaneGives s p.1 f f.ty.wide 1 (fun l => (imageOf f.ty (p.2 l), 0))) ∧
    (LaneReady s (.vclass f) → LaneGives s (.vclass f) f false 1 (fun l => (2 ^ Arith.classOf (fmt f.ty) (a l) % 2 ^ 32, 0))) ∧
    (LaneReady s (.vcmp f) → Gives (.vcmp f) s (fun t =>
      (∀ l : Lane, (t.me.lf.m[f.maskNo]).getLsbD l.val =
        if act.getLsbD l.val then (compare f.ty f.cond.toNat (a l) (b l)).1 else (s.me.lf.m[f.maskNo]).getLsbD l.val) ∧
      (∀ k, k ≠ f.maskNo → t.me.lf.m[k] = s.me.lf.m[k]) ∧ Raised s t act (fun l => (compare f.ty f.cond.toNat (a l) (b l)).2) ∧
      t.me.lf = { s.me.lf with m := t.me.lf.m } ∧ KeptScalars s t ∧ LanePassed s t)) ∧
    (f.ty.isInt → ∀ p q, (compare f.ty 0 p q).1 = decide (Arith.intVal f.ty p = Arith.intVal f.ty q) ∧
      (compare f.ty 2 p q).1 = decide (Arith.intVal f.ty p < Arith.intVal f.ty q) ∧ (compare f.ty 3 p q).1 = decide (Arith.intVal f.ty p ≤ Arith.intVal f.ty q) ∧
      (compare f.ty 1 p q).1 = !(compare f.ty 0 p q).1 ∧ (compare f.ty 4 p q).1 = (compare f.ty 2 q p).1 ∧ (compare f.ty 5 p q).1 = (compare f.ty 3 q p).1) ∧
    (LaneReady s (.vlane f) → Gives (.vlane f) s (fun t =>
      Delivered s t f (if h : s.me.uniform f f.b < 96 then scalarOf f.ty (a ⟨s.me.uniform f f.b, h⟩) else 0) ∧
      t.me.lf = s.me.lf ∧ t.me.sy = s.me.sy ∧ LanePassed s t))

/-- R72, R126, R128–R134: conversions, blocks and the accumulator group.
Where the spec leaves it open, this is the model's reading: log entry 20. -/
def Obligations.LaneConversionsAndAccumulators : Prop :=
  ∀ (s : State) (f : LaneFields),
    let x := s.me
    let r := fun (l : Lane) => x.rounding f 0 l
    let acc := fun (o : Opnd) (l : Lane) => x.image false o l
    let src := f.cvtSrc.getD f.ty
    (LaneReady s (.vcvt f) → LaneGives s (.vcvt f) f f.ty.wide 1 (fun l => eltRes f.ty (Arith.convert src f.ty (r l) (x.elem f src f.a l)))) ∧
    (LaneReady s (.vqblk f) →
      let t := blockSource f
      let k := (Arith.Block.ofTy f.ty).getD .e2m1
      let v := fun (l : Lane) => (fmt t).val (x.elem f t f.a l)
      let scale := fun (l : Lane) => Arith.blockScale k
        (((List.finRange 96).filter (fun j => j.val / 32 == l.val / 32 && (x.todo f.sel).getLsbD j.val)).map v)
      LaneGives s (.vqblk f) f true 1 (fun l =>
        ((Arith.blockElem k (r l) (scale l) (v l)).1 + 2 ^ 32 * (scale l * 256), (Arith.blockElem k (r l) (scale l) (v l)).2))) ∧
    (LaneReady s (.vdqblk f) →
      let k := (Arith.Block.ofCode f.hi4.toNat).getD .e2m1
      let code := fun (l : Lane) (j : Nat) => atLane (fun m => x.word f f.a m) (l.val / 32 * 32 + j)
      let head := fun (l : Lane) => x.word f f.b l
      LaneGives s (.vdqblk f) f f.ty.wide 1 (fun l =>
        eltRes f.ty (Arith.blockDecode f.ty (r l) (Arith.elemVal k (code l) (head l / 16 % 16) (l.val % 32)) (head l / 256)))) ∧
    (LaneReady s (.afma f) →
      (f.ty.isF → LaneGives s (.afma f) f false 1 (fun l =>
        Arith.fma Arith.f64 (r l) (x.wideFloat f f.a l) (x.wideFloat f f.b l) (Arith.f64.val (acc f.dst l)))) ∧
      (f.ty.isF = false → LaneGives s (.afma f) f false 1 (fun l =>
        (Arith.intResult .i64 f.sat (x.wideInt f f.a l * x.wideInt f f.b l + Arith.intVal .i64 (acc f.dst l)), 0)))) ∧
    (LaneReady s (.aadd f) →
      (f.ty.isF → LaneGives s (.aadd f) f false 1 (fun l => Arith.add Arith.f64 (r l) (x.wideFloat f f.a l) (x.wideFloat f f.b l))) ∧
      (f.ty.isF = false → LaneGives s (.aadd f) f false 1 (fun l =>
        (Arith.intResult .i64 f.sat (Arith.intVal .i64 (Arith.intCode .i64 (x.wideInt f f.a l)) + Arith.intVal .i64 (Arith.intCode .i64 (x.wideInt f f.b l))), 0)))) ∧
    (LaneReady s (.aclr f) → LaneGives s (.aclr f) f false 0 (fun _ => (0, 0))) ∧
    (LaneReady s (.awiden f) →
      (f.ty.isF → LaneGives s (.awiden f) f false 0 (fun l =>
        Arith.cvtFloat (fmt f.ty) Arith.f64 Arith.nearest ((fmt f.ty).val (x.elem f f.ty f.a l)))) ∧
      (f.ty.isF = false → LaneGives s (.awiden f) f false 0 (fun l => (Arith.intCode .i64 (Arith.intVal f.ty (x.elem f f.ty f.a l)), 0)))) ∧
    (LaneReady s (.anarrow f) →
      let from' : Ty := if f.hi4 = 0 then .f64 else .i64
      (f.ty = from' → LaneGives s (.anarrow f) f f.ty.wide 1 (fun l => (imageOf f.ty (acc f.a l), 0))) ∧
      (f.ty ≠ from' → LaneGives s (.anarrow f) f f.ty.wide 1 (fun l => eltRes f.ty (Arith.convert from' f.ty (r l) (acc f.a l)))))

/-- R116, R135–R138, R405, R406: the bounded forms write a value and its bound and set the tag; `vaccept` clears the tag and counts the lanes over
the threshold; `vbound` gives the largest bound. Where the spec leaves it open, this is the model's reading: log entry 111. -/
def Obligations.LaneBounded : Prop :=
  ∀ (s : State) (f : LaneFields) (n : Fin 128),
    let x := s.me
    let act := x.todo f.sel
    let v := fun (o : Opnd) (l : Lane) => Arith.f32.val (x.single f o l)
    let e := fun (o : Opnd) (l : Lane) => x.bound o l
    let r := fun (l : Lane) => x.rounding f 0 l
    let c := f.c.getD .zero
    let ready := fun (i : Instr) (os : List Opnd) => i.wellFormed ∧ x.lq.chain = none ∧ os.any x.lf.isTagged ∧ f.dst = .v n
    let gives := fun (i : Instr) (res : Lane → Arith.Res) (bound : Lane → Nat) => Gives i s (fun t =>
      Wrote x.lf t.me.lf f.dst true act (fun l => (res l).1 + 2 ^ 32 * bound l) ∧ Raised s t act (fun l => (res l).2) ∧ Drew s t f 0 ∧
      t.me.lf.m = x.lf.m ∧ t.me.lf.tag = (x.lf.tag ||| (1#128 <<< n.val)) ∧ KeptScalars s t ∧ LanePassed s t)
    let sum := fun (l : Lane) => Arith.add Arith.f32 (r l) (v f.a l) (v f.b l)
    let prod := fun (l : Lane) => Arith.mul Arith.f32 (r l) (v f.a l) (v f.b l)
    let fma := fun (l : Lane) => Arith.fma Arith.f32 (r l) (v f.a l) (v f.b l) (v c l)
    let top := fun (l : Lane) => Arith.minMax Arith.f32 true (x.single f f.a l) (x.single f f.b l)
    let narrow := fun (l : Lane) => Arith.cvtFloat Arith.f32 (fmt f.ty) (r l) (v f.a l)
    let back := fun (l : Lane) => Arith.cvtFloat (fmt f.ty) Arith.f32 Arith.nearest ((fmt f.ty).val (narrow l).1)
    (ready (.vaddBe f) [f.a, f.b] → gives (.vaddBe f) sum (fun l => boundCode [e f.a l, e f.b l] (Arith.f32.val (sum l).1) false
      (((e f.a l).dyadic.add (e f.b l).dyadic).add (ulp32 (Arith.f32.val (sum l).1))))) ∧
    (ready (.vmulBe f) [f.a, f.b] → gives (.vmulBe f) prod (fun l => boundCode [e f.a l, e f.b l] (Arith.f32.val (prod l).1) false
      ((productBound (v f.a l) (v f.b l) (e f.a l) (e f.b l)).add (ulp32 (Arith.f32.val (prod l).1))))) ∧
    (ready (.vfmaBe f) [f.a, f.b, c] → gives (.vfmaBe f) fma (fun l => boundCode [e f.a l, e f.b l, e c l] (Arith.f32.val (fma l).1) false
      (((productBound (v f.a l) (v f.b l) (e f.a l) (e f.b l)).add (e c l).dyadic).add (ulp32 (Arith.f32.val (fma l).1))))) ∧
    (ready (.vmaxBe f) [f.a, f.b] → gives (.vmaxBe f) top (fun l => boundCode [e f.a l, e f.b l] (Arith.f32.val (top l).1) false
      (dyadicMax (e f.a l).dyadic (e f.b l).dyadic))) ∧
    (ready (.vcvtBe f) [f.a] → gives (.vcvtBe f) (fun l => ((back l).1, (narrow l).2)) (fun l =>
      boundCode [e f.a l] (Arith.f32.val (back l).1) ((narrow l).2 &&& Arith.overflow != 0)
        ((e f.a l).dyadic.add (Arith.ulp (fmt f.ty).emin (fmt f.ty).fb ((fmt f.ty).val (narrow l).1))))) ∧
    ((Instr.vaccept f).wellFormed → x.lq.chain = none → f.dst = .v n → x.lf.tagged n.val → Gives (.vaccept f) s (fun t =>
      (t.me.lf.v = x.lf.v ∧ t.me.lf.a = x.lf.a ∧ t.me.lf.x = x.lf.x ∧ t.me.lf.gen = x.lf.gen) ∧
      t.me.lf.tag = (x.lf.tag &&& ~~~(1#128 <<< n.val)) ∧
      (∀ k : Fin 8, k ≠ 7 → t.me.lf.m[k] = x.lf.m[k]) ∧ (∀ l : Lane, act.getLsbD l.val = false → (t.me.lf.m[(7 : Fin 8)]).getLsbD l.val = (x.lf.m[(7 : Fin 8)]).getLsbD l.val) ∧
      (∀ l : Lane, act.getLsbD l.val →
        let v := Arith.f32.val (x.image true f.dst l % 2 ^ 32)
        let b := Arith.f32.val (x.image true f.dst l / 2 ^ 32)
        let th := Arith.f32.val (x.single f f.b l)
        let big : Arith.Val := match b with | .fin _ m e => .fin false m e | .inf _ => .inf false | k => k
        (t.me.lf.m[(7 : Fin 8)]).getLsbD l.val = (b.isNan || th.isNan || v.isNan || v.isInf || Arith.ltVal th big)) ∧
      Delivered s t f (BitVec.ofNat 64 ((List.finRange 96).countP (fun l => act.getLsbD l.val && (t.me.lf.m[(7 : Fin 8)]).getLsbD l.val))) ∧
      t.me.sy = x.sy ∧ LanePassed s t)) ∧
    ((Instr.vbound f).wellFormed → x.lq.chain = none → x.lf.isTagged f.a → Gives (.vbound f) s (fun t =>
      Delivered s t f (BitVec.ofNat 64 (((List.finRange 96).filter (fun l => act.getLsbD l.val)).foldl
        (fun p l => maxBound p (x.image true f.a l / 2 ^ 32 % 2 ^ 31)) 0)) ∧
      t.me.lf = x.lf ∧ t.me.sy = x.sy ∧ LanePassed s t))

/-- R77, R222–R230: cross-lane instructions over segments of w lanes. Lanes that are active and members take part.
Where the spec leaves it open, this is the model's reading: log entries 18 and 97. -/
def Obligations.LaneCross : Prop :=
  ∀ (s : State) (f : LaneFields) (w : Nat),
    let x := s.me
    let act := x.todo f.sel
    let el := fun (n : Nat) => atLane (fun l => x.elem f f.ty f.a l) n
    let im := fun (n : Nat) => imageOf f.ty (el n)
    let base := fun (l : Lane) => l.val / w * w
    let m := x.uniform f f.b
    let mc := x.uniform f (f.c.getD .zero)
    let part := fun (n : Nat) => act.getLsbD n && isMember m n
    let seg := fun (g : Nat) => ((List.range w).map (fun p => g * w + p)).filter part
    let rank := fun (l : Lane) => ((List.range (l.val % w)).filter (fun p => part (base l + p))).length
    let partMask := x.writeMask f f.dst &&& maskOf (fun l => part l.val)
    let quiet := fun (t : State) => t.me.lf.gen = x.lf.gen ∧ t.me.lf.tag = x.lf.tag ∧ LanePassed s t
    (LaneReady s (.vshuf f) → memberWidth mc false = some w → Gives (.vshuf f) s (fun t =>
      Wrote x.lf t.me.lf f.dst f.ty.wide (x.writeMask f f.dst) (fun l =>
        if isMember mc (base l + x.word f f.b l % w) then im (base l + x.word f f.b l % w) else 0) ∧
      t.me.lf.m = x.lf.m ∧ t.me.sy = x.sy ∧ KeptScalars s t ∧ quiet t)) ∧
    (LaneReady s (.vbcast f) → memberWidth m true = some w → Gives (.vbcast f) s (fun t =>
      Wrote x.lf t.me.lf f.dst f.ty.wide (x.writeMask f f.dst) (fun l =>
        if isMember m (base l + bitsOf m 14 8) then im (base l + bitsOf m 14 8) else 0) ∧
      t.me.lf.m = x.lf.m ∧ t.me.sy = x.sy ∧ KeptScalars s t ∧ quiet t)) ∧
    (memberWidth m false = some w →
      (LaneReady s (.vredu f) →
        let root := fun (g : Nat) => treeRoot ((x.trees f w m).getD g [])
        Gives (.vredu f) s (fun t =>
          Wrote x.lf t.me.lf f.dst f.ty.wide (x.writeMask f f.dst) (fun l => imageOf f.ty (root (l.val / w)).1) ∧
          Raised s t act (fun l => (root (l.val / w)).2) ∧ Delivered s t f (scalarOf f.ty (root 0).1) ∧ t.me.lf.m = x.lf.m ∧ quiet t)) ∧
      (LaneReady s (.vscan f) →
        let pre := fun (l : Lane) => treePrefix (redNode f.ty f.redOp ⟨Arith.modeOf false f.rm, 0⟩) (redIdentity f.ty f.redOp)
          ((x.trees f w m).getD (l.val / w) []) (l.val % w + (if f.hi4.getLsbD 0 then 0 else 1))
        Gives (.vscan f) s (fun t =>
          Wrote x.lf t.me.lf f.dst f.ty.wide (x.writeMask f f.dst) (fun l => imageOf f.ty (pre l).1) ∧ Raised s t act (fun l => (pre l).2) ∧
          KeptScalars s t ∧ t.me.lf.m = x.lf.m ∧ quiet t)) ∧
      (LaneReady s (.vmatch f) → Gives (.vmatch f) s (fun t => ∃ v : Lane → Nat,
        (∀ l : Lane, part l.val → base l ≤ v l ∧ v l < base l + w ∧ part (v l) ∧ keysMatch f.ty l.val (v l) (el l.val) (el (v l)) ∧
          (∀ k, base l ≤ k → k < v l → part k → keysMatch f.ty l.val k (el l.val) (el k) = false)) ∧
        Wrote x.lf t.me.lf f.dst false partMask v ∧
        (∀ l : Lane, (t.me.lf.m[f.maskNo]).getLsbD l.val = if part l.val then v l == l.val else (x.lf.m[f.maskNo]).getLsbD l.val) ∧
        (∀ k, k ≠ f.maskNo → t.me.lf.m[k] = x.lf.m[k]) ∧ t.me.sy = x.sy ∧ KeptScalars s t ∧ quiet t)) ∧
      (LaneReady s (.vvote f) →
        let yes := fun (n : Nat) => part n && el n != 0
        let op := (f.hi4.extractLsb' 1 2).toNat
        let vote := fun (l : Nat) =>
          if op = 0 then (if ∃ p, p < w ∧ yes (l / w * w + p) then 1 else 0)
          else if op = 1 then (if ∀ p, p < w → part (l / w * w + p) → yes (l / w * w + p) then 1 else 0)
          else if op = 2 then ((List.range w).filter (fun p => yes (l / w * w + p))).length
          else ((List.range 32).map (fun b => if (l / 32 * 32 + b) / w = l / w ∧ yes (l / 32 * 32 + b) then 2 ^ b else 0)).sum
        Gives (.vvote f) s (fun t =>
          Wrote x.lf t.me.lf f.dst false (x.writeMask f f.dst &&& maskOf (fun l => l.val != 0 || isMember m 0)) (fun l => vote l.val) ∧ Delivered s t f (BitVec.ofNat 64 (vote 0)) ∧
          t.me.lf.m = x.lf.m ∧ t.me.sy = x.sy ∧ quiet t)) ∧
      (LaneReady s (.vsort f) → Gives (.vsort f) s (fun t => ∃ order : Nat → List Nat,
        (∀ g, g < 96 / w → (order g).Perm (seg g) ∧ (order g).Pairwise (fun p q =>
          let kp := sortKey f.ty (el p)
          let kq := sortKey f.ty (el q)
          (if f.hi4.getLsbD 0 then kq < kp else kp < kq) ∨ (kp = kq ∧ p < q))) ∧
        Wrote x.lf t.me.lf f.dst true partMask (fun l => el ((order (l.val / w)).getD (rank l) 0) + 2 ^ 32 * (order (l.val / w)).getD (rank l) 0) ∧
        t.me.lf.m = x.lf.m ∧ t.me.sy = x.sy ∧ KeptScalars s t ∧ quiet t)) ∧
      (LaneReady s (.vcompress f) →
        let picks := fun (g : Nat) => (seg g).filter (fun l => (x.lf.m[(f.w2.extractLsb' 9 3).toFin]).getLsbD l)
        Gives (.vcompress f) s (fun t =>
          Wrote x.lf t.me.lf f.dst f.ty.wide partMask (fun l => match (picks (l.val / w))[rank l]? with | some k => im k | none => 0) ∧
          Delivered s t f (BitVec.ofNat 64 ((List.range (96 / w)).map (fun g => (picks g).length)).sum) ∧
          t.me.lf.m = x.lf.m ∧ t.me.sy = x.sy ∧ quiet t)))

/-- R139–R143, R237, R266, R277–R281, R284, R293, R294: lane memory instructions in global space, loads, stores and rows in space 6, and atomics in
every space that they may reach, enter an operation with one access for each active lane, at the address the lane's operands give; the run's next
instruction follows without waiting. -/
def Obligations.LaneMemoryIssue : Prop :=
  ∀ (s : State) (f : LaneFields),
    let x := s.me
    let pol := x.policy f
    let n := f.ty.width / 8
    let ea := x.gatherAddress f
    let row := x.rowAddress f n
    let code := laneAtomicCode f.ty (f.hi5.extractLsb' 0 4).toNat
    let zero := fun (_ : Lane) => (0 : Word64)
    x.todo f.sel ≠ 0 → Pol.ok pol →
    (f.space = 0 →
    (LaneReady s (.vld f) → Pol.release pol = false → s.entryFree true → LaneAddressesOk s (.vld f) f n n false ea →
      Gives (.vld f) s (fun t => LaneIssues s t f .load n true (some f.dst) ea zero zero)) ∧
    (LaneReady s (.vst f) → Pol.acquire pol = false → LaneAddressesOk s (.vst f) f n n true ea →
      Gives (.vst f) s (fun t => LaneIssues s t f .store n false none ea (x.dataOf f) zero)) ∧
    (LaneReady s (.vatom f) → s.entryFree true → LaneAddressesOk s (.vatom f) f n n true ea →
      Gives (.vatom f) s (fun t => LaneIssues s t f (.atomic code true) n true (some f.dst) ea (x.dataOf f) zero)) ∧
    (LaneReady s (.vred f) → Pol.acquire pol = false → x.reduceFull = false → LaneAddressesOk s (.vred f) f n n true ea →
      Gives (.vred f) s (fun t => LaneIssues s t f (.atomic code false) n false none ea (x.dataOf f) zero)) ∧
    (LaneReady s (.vcas f) → s.entryFree true → LaneAddressesOk s (.vcas f) f n n true (x.dword f.a) →
      Gives (.vcas f) s (fun t => LaneIssues s t f .cas n true (some f.dst) (x.dword f.a) (x.dataOf f) (fun l => BitVec.ofNat 64 (x.elem f f.ty f.b l))))) ∧
    (f.space = 1 ∨ f.space = 3 ∨ f.space = 4 ∨ f.space = 6 →
    (LaneReady s (.vatom f) → LaneAddressesOk s (.vatom f) f n n true ea →
      Gives (.vatom f) s (fun t => LaneIssues s t f (.atomic code true) n false (some f.dst) ea (x.dataOf f) zero)) ∧
    (LaneReady s (.vred f) → Pol.acquire pol = false → x.reduceFull = false → LaneAddressesOk s (.vred f) f n n true ea →
      Gives (.vred f) s (fun t => LaneIssues s t f (.atomic code false) n false none ea (x.dataOf f) zero)) ∧
    (LaneReady s (.vcas f) → LaneAddressesOk s (.vcas f) f n n true (x.dword f.a) →
      Gives (.vcas f) s (fun t => LaneIssues s t f .cas n false (some f.dst) (x.dword f.a) (x.dataOf f) (fun l => BitVec.ofNat 64 (x.elem f f.ty f.b l))))) ∧
    (f.space = 6 →
    (LaneReady s (.vld f) → Pol.release pol = false → LaneAddressesOk s (.vld f) f n n false ea →
      Gives (.vld f) s (fun t => LaneIssues s t f .load n false (some f.dst) ea zero zero)) ∧
    (LaneReady s (.vst f) → Pol.acquire pol = false → LaneAddressesOk s (.vst f) f n n true ea →
      Gives (.vst f) s (fun t => LaneIssues s t f .store n false none ea (x.dataOf f) zero)) ∧
    (LaneReady s (.vldl f) → Pol.release pol = false → LaneAddressesOk s (.vldl f) f n 1 false row → (x.rowBase f).toNat % n = 0 →
      Gives (.vldl f) s (fun t => LaneIssues s t f .load n false (some f.dst) row zero zero)) ∧
    (LaneReady s (.vstl f) → Pol.acquire pol = false → LaneAddressesOk s (.vstl f) f n 1 true row → (x.rowBase f).toNat % n = 0 →
      Gives (.vstl f) s (fun t => LaneIssues s t f .store n false none row (x.dataOf f) zero)))

/-- R233–R236, R280, R282, R350–R352: lane loads and stores in an own region act at once on the bytes of their lanes and no others; `vldl.be` loads
a value and its bound and sets the tag; `vpref` only requests granules, and drops L1 requests only where 16 are outstanding; an accepted `lcopy`
joins the copy queue. Where the spec leaves it open, this is the model's reading: log entries 8 and 112. -/
def Obligations.LaneMemoryLocal : Prop :=
  ∀ (s : State) (f : LaneFields) (c : Crew),
    let x := s.me
    let pol := x.policy f
    let n := f.ty.width / 8
    let act := x.todo f.sel
    let sp := f.space.toNat
    let ea := x.gatherAddress f
    let row := x.rowAddress f n
    let own := 1 ≤ sp ∧ sp ≤ 4
    let loaded := fun (i : Instr) (ea : Lane → Word64) => Gives i s (fun t =>
      Wrote x.lf t.me.lf f.dst f.ty.wide act (fun l => imageOf f.ty (ofLe (c.load sp (ea l).toNat n))) ∧
      KeptMasks s t ∧ t.me.lf.gen = x.lf.gen ∧ t.me.sy = x.sy ∧ KeptScalars s t ∧ LanePassed s t)
    RelaxedWord pol → s.crewOf x.who.gang x.who.peer = some c →
    (own →
      (LaneReady s (.vld f) → LaneAddressesOk s (.vld f) f n n false ea → s.bankFree f .load sp n act ea → loaded (.vld f) ea) ∧
      (LaneReady s (.vldl f) → LaneAddressesOk s (.vldl f) f n 1 false row → (x.rowBase f).toNat % n = 0 → s.bankFree f .load sp n act row →
        loaded (.vldl f) row)) ∧
    (own →
      (LaneReady s (.vst f) → LaneAddressesOk s (.vst f) f n n true ea → s.bankFree f .store sp n act ea → LanesApart act n ea →
        Gives (.vst f) s (fun t => LanesStored s t f c n ea (x.dataOf f))) ∧
      (LaneReady s (.vstl f) → LaneAddressesOk s (.vstl f) f n 1 true row → (x.rowBase f).toNat % n = 0 → s.bankFree f .store sp n act row →
        LanesApart act n row → Gives (.vstl f) s (fun t => LanesStored s t f c n row (x.dataOf f)))) ∧
    (∀ d : Fin 128, LaneReady s (.vldlBe f) → f.dst = .v d → LaneAddressesOk s (.vldlBe f) f 8 1 false (x.rowAddress f 8) → sp = 5 →
      (x.rowBase f).toNat % 8 = 0 → s.bankFree f .load 5 8 act (x.rowAddress f 8) →
      Gives (.vldlBe f) s (fun t =>
        Wrote x.lf t.me.lf f.dst true act (fun l => ofLe (c.load 5 (x.rowAddress f 8 l).toNat 8)) ∧
        t.me.lf.tag = (x.lf.tag ||| (1#128 <<< d.val)) ∧ t.me.lf.m = x.lf.m ∧ KeptScalars s t ∧ LanePassed s t)) ∧
    (LaneReady s (.vpref f) → Gives (.vpref f) s (fun t =>
      (∃ xs : List Access, t.access = s.access ++ xs ∧ (∀ a ∈ xs, a.kind = .prefetch (f.hi4.getLsbD 3) ∧ a.entry = false ∧ a.size = 1 ∧
          ∃ l : Lane, act.getLsbD l.val ∧ a.va = ea l ∧ canonical (ea l) ∧ aperture (ea l) = false) ∧
        (∀ l : Lane, act.getLsbD l.val → canonical (ea l) → aperture (ea l) = false →
          (∃ a ∈ xs, a.va = ea l) ∨ (f.hi4.getLsbD 3 ∧ 16 ≤ s.l1Prefetches x.who.id.core + xs.length)) ∧
        (f.hi4.getLsbD 3 → s.l1Prefetches x.who.id.core + xs.length ≤ max 16 (s.l1Prefetches x.who.id.core))) ∧
      t.me.lf = x.lf ∧ KeptScalars s t ∧ SameBytes s t ∧ t.cores = s.cores)) ∧
    (LaneReady s (.lcopy f) → act ≠ 0 → (1 ≤ sp ∧ sp ≤ 3 ∨ sp = 6) →
      (∀ l : Lane, act.getLsbD l.val →
        let p := x.copyLane f l
        p.2.2 ≤ 32 ∧ canonical p.1 ∧ p.1.toNat % 4 = 0 ∧ p.2.1.toNat % 32 = 0 ∧ s.inRegion (x.agent pol) sp p.2.1 32 ∧
        s.rowsHitDescriptor (x.agent pol) sp p.2.1 1 1 32 = false) →
      ((s.core x.who.id.core).copies.filter (fun k => k.kind == 2)).length < 64 →
      Gives (.lcopy f) s (fun t =>
        (∃ cmd : CopyCmd, (t.core x.who.id.core).copies = (s.core x.who.id.core).copies ++ [cmd] ∧ cmd.n = s.nextId ∧ cmd.kind = 2 ∧
          cmd.tag = f.hi4.extractLsb' 0 2 ∧ cmd.pol = pol ∧ cmd.chunk = 0 ∧ cmd.run = x.run.id ∧ cmd.idx = x.run.next ∧
          (∀ e, e ∈ cmd.lanes ↔ ∃ l : Lane, act.getLsbD l.val ∧ e = (l.val, x.copyLane f l))) ∧
        t.me.ops = x.ops ++ [{ n := s.nextId, cls := Fin.ofNat 8 (f.hi4.extractLsb' 0 2).toNat, done := false, flags := 0 }] ∧
        t.me.lf = x.lf ∧ KeptScalars s t ∧ t.access = s.access ∧ SameBytes s t))

/-- R82, R107, R113, R114, R135, R274, R275: where lane instructions trap. An encoding that breaks a rule of the format, and a word that is no
instruction, are Undefined; a forbidden use of a tagged register is Type; a space that the instruction may not reach traps in its lanes, and a bad
address in the lanes that have one. Where the spec leaves it open, this is the model's reading: log entries 24, 54, 85, 101 and 109. -/
def Obligations.LaneTrapConditions : Prop :=
  ∀ (s : State) (f : LaneFields) (w : BitVec 96) (v : Word32), CanLaneTrap s →
    (∀ i ∈ [Instr.vadd f, .vfma f, .vdiv f, .viadd f, .vand f, .vcmp f, .vsel f, .vcvt f, .afma f, .vshuf f, .vredu f, .vld f, .vst f, .vatom f],
      (i.wellFormed = false → LaneTraps s i 0x01 0 (s.me.active f.sel)) ∧
      (i.wellFormed → (i = .vld f ∨ i = .vst f ∨ i = .vatom f → RelaxedWord (s.me.policy f)) → (s.me.lf.badRead i ∨ s.me.lf.badWrite i) →
        LaneTraps s i 0x04 0 (s.me.active f.sel))) ∧
    (∀ i ∈ [Instr.vaddBe f, .vmulBe f], i.wellFormed → s.me.lf.isTagged f.a = false → s.me.lf.isTagged f.b = false →
      LaneTraps s i 0x04 0 (s.me.active f.sel)) ∧
    (∀ l : Lane, LaneReady s (.vld f) → RelaxedWord (s.me.policy f) → (s.me.todo f.sel).getLsbD l.val →
      (∀ k : Lane, k < l → (s.me.todo f.sel).getLsbD k.val = false) →
      (f.space = 5 → LaneTraps s (.vld f) 0x04 (s.me.gatherAddress f l) (s.me.active f.sel)) ∧
      (f.space = 0 → canonical (s.me.gatherAddress f l) = false → LaneTraps s (.vld f) 0x07 (s.me.gatherAddress f l)
        (maskOf (fun k => (s.me.todo f.sel).getLsbD k.val && !canonical (s.me.gatherAddress f k))))) ∧
    (s.wave = none → ∀ i ∈ [Instr.undefinedLaneOpcode w, .nelse, .nendif, .nif 0, .ncol f.dst f.a f.w2, .ncolw f.a 0, .nact f.a f.w2],
      LaneTraps s i 0x01 0 s.me.run.em) ∧
    (CanTrap s → Traps s (.undefinedScalarWord v) 0x01 0)

/-! ## Candles and events -/

/-- R416, R417: the candle-only instructions on every bank ALU of the running wave: `nif` keeps the lanes of the mask, `nelse` takes the lanes of
the enclosing mask that were off, `nendif` restores the enclosing mask, `nact` opens a row, `ncol` reads and `ncolw` writes a column of it, in
the lanes of cur.
Where the spec leaves it open, this is the model's reading: log entries 10 and 44. -/
def Obligations.CandleInstructions : Prop :=
  ∀ (s : State) (w : Wave) (k : Fin 8) (d : Fin 16) (a o : Opnd) (c : BitVec 9) (v : Word32), s.wave = some w →
    let gives := fun (i : Instr) (f : Bank → Bank) => Gives i s (fun t => t = { s with wave := some { w with banks := w.banks.map f } })
    (∀ h : k.val < 4, gives (.nif k) (fun b => { b with stack := b.cur :: b.stack, cur := b.cur &&& b.m[k.val] })) ∧
    gives .nelse (fun b => { b with cur := b.stack.headD 0 &&& ~~~b.cur }) ∧
    gives .nendif (fun b => { b with cur := b.stack.headD 0, stack := b.stack.tail }) ∧
    gives (.nact a v) (fun b => { b with row := some (w.position b a v / 16 % 4) }) ∧
    ((∀ b ∈ w.banks, b.row.isSome) → Gives (.ncol (.v (d.castLE (by decide))) a v) s (fun t =>
      t = { s with wave := t.wave } ∧ ∃ bs, t.wave = some { w with banks := bs } ∧ bs.length = w.banks.length ∧
        ∀ n (h : n < w.banks.length) (h' : n < bs.length),
          let b := w.banks[n]
          let lo := 4096 * b.frame + 1024 * b.row.getD 0 + 64 * (w.position b a v % 16)
          bs[n] = { b with c := bs[n].c } ∧ (∀ j : Fin 16, j ≠ d → bs[n].c[j] = b.c[j]) ∧
          (∀ i : Fin 16, bs[n].c[d][i] = if b.cur.getLsbD i.val
            then BitVec.ofNat 32 (ofLe (s.localRead 0 w.chip (lo + 4 * i.val) 4)) else b.c[d][i]))) ∧
    (∀ (b : Bank) (r : Nat), w.banks = [b] → b.row = some r → Opnd.ofCode c = some o → Gives (.ncolw a c) s (fun t =>
      let lo := 4096 * b.frame + 1024 * r + 64 * (w.position b a 0 % 16)
      t = { s with dram := t.dram, epochs := t.epochs } ∧
      (∀ i : Fin 16, t.localRead 0 w.chip (lo + 4 * i.val) 4 =
        if b.cur.getLsbD i.val then leBytes 4 (w.image b o i % 2 ^ 32) else s.localRead 0 w.chip (lo + 4 * i.val) 4) ∧
      (∀ key, key / 64 ≠ dramKey w.chip lo / 64 → t.dram.read key = s.dram.read key ∧ Table.get t.epochs (key / 64) 0 = Table.get s.epochs (key / 64) 0)))

/-- R164–R174, R184, R186, R197–R200, R213, R214, R451, R462: the events of scheduling. A port's cycle ends with its issue and touches no strand of
another port; the wick promotes and, with hien, starves; a promoted or starving strand takes a holder's slot and issues from the next cycle on; a
pause returns its priority when it ends; a blocked strand times out into a trap; a strand with a fault due takes it at its boundary; a halted strand
without operations retires. Where the spec leaves it open, this is the model's reading: log entries 51, 52, 53, 79 and 83. -/
def Obligations.SchedulingEvents : Prop :=
  ∀ (s : State) (c : CoreId) (p : Fin 4) (t : StrandId) (x : Strand),
    Gives (.portCycle c p) s (fun u => u.clock = s.clock + 1 ∧ (∃ due, u.agenda = due ++ s.agenda ++ [.issue c p]) ∧
      (∀ y ∈ s.strands, y.onPort c p = false → y ∈ u.strands) ∧ u.me.s = s.me.s ∧ u.me.pc = s.me.pc ∧ u.access = s.access ∧ SameBytes s u) ∧
    (s.strand t = some x →
      (x.sy.lo ≠ 0 → x.sy.lo.toNat ≤ x.sch.wick → x.sch.promoted = false → x.sch.parked = false → x.sch.retired = false →
        Gives (.wickPromotion t) s (fun u => ∃ y, u.strand t = some y ∧ y.sch.promoted = true ∧
          y = { x with sch := { x.sch with promoted := true } } ∧ SameBytes s u)) ∧
      (∀ v, x.urgent → x.sch.slot = none → s.victim c p = some v → v.who.id ≠ t → x.who.id = t →
        ∃ y, (s.displacements c p [x]).strand t = some y ∧ y.sch.slot = v.sch.slot ∧ y.sch.entered ∧ y.mayIssueNow = false) ∧
      (x.sy.hien → x.sy.hi.toNat ≤ x.sch.wick → x.sch.starved = false → x.sch.retired = false →
        Gives (.starvation t) s (fun u => ∃ y, u.strand t = some y ∧ y.sch.starving = true ∧ y.sch.starved = true ∧
          y = { x with sch := { x.sch with starving := true, starved := true } } ∧ SameBytes s u)) ∧
      (x.sch.paused = 1 → Gives (.pauseExpiry t) s (fun u => u.strand t = some { x with sch := { x.sch with paused := 0 } } ∧ SameBytes s u)) ∧
      (x.sch.halted → x.ops = [] →
        Gives (.strandRetire t) s (fun u => u.strand t = some { x with sch := { x.sch with retired := true, parked := false } } ∧
          SameBytes s u)) ∧
      (∀ ea, s.blockedOn x = some ea → x.sy.blkt ≠ 0 → x.sy.blkt.toNat ≤ x.sch.blocked → x.sch.hold = false → x.laneBusy = false → x.tr.sup = false → x.tr.tvec ≠ 0 →
        Gives (.blockTimeout t) s (fun u => u.me.who = x.who ∧ u.me.tr.sup ∧ u.me.tr.ecause = 0x12 ∧ u.me.tr.eaddr = ea ∧ u.me.tr.espc = x.pc ∧
          u.me.pc = x.tr.tvec + 0x40 ∧ u.me.sch.wait = .none ∧ (∀ r : Reg, r ≠ 56 → r ≠ 57 → r ≠ 58 → u.me.s[r] = x.s[r]))) ∧
      (∀ f fs, x.faults = f :: fs → f.lanes = 0 → x.sch.wait ≠ .none → x.sch.retired = false → x.sch.hold = false → x.tr.sup = false → x.tr.tvec ≠ 0 →
        x.redo = [] → x.replay = [] → x.lq.ops = [] → x.lq.chain = none →
        Gives (.trapEntry t) s (fun u => u.me.who = x.who ∧ u.me.tr.sup ∧ u.me.tr.ecause = f.cause ∧ u.me.tr.eaddr = f.eaddr ∧ u.me.tr.espc = x.pc ∧
          u.me.pc = x.tr.tvec + 0x40 ∧ u.me.serving = some f ∧ (∀ r : Reg, r ≠ 56 → r ≠ 57 → r ≠ 58 → u.me.s[r] = x.s[r])))) ∧
    (∀ (q : QueueId) (k : Crew) (n : Nat) (w : Fin 32 × StrandId), s.crewOf q.gang q.peer = some k →
      k.tapers.find? (fun e => e.1 == q.q) = some (q.q, n) → k.pushers.find? (fun e => e.1 == q.q) = some w → 1024 ≤ n →
      let v := s.modifyCrew q.gang q.peer (fun k => { k with tapers := (q.q, n - 1024) :: k.tapers.filter (fun e => e.1 != q.q) })
      (v.taperWalk q 16 q true = false → Gives (.taper q) s (fun u => u = v)) ∧
      (∀ y, v.taperWalk q 16 q true → (k.descAt (k.descriptor q.q.val)).reserve → s.strand w.2 = some y → y.sch.hold = false → y.laneBusy = false → y.tr.sup = false →
        y.tr.tvec ≠ 0 → (∀ m, y.sch.wait ≠ .lock m) →
        Gives (.taper q) s (fun u => u.me.who = y.who ∧ u.me.tr.sup ∧ u.me.tr.ecause = 0x11 ∧ u.me.tr.eaddr = BitVec.ofNat 64 (q.peer * 256 + q.q.val) ∧
          u.me.tr.espc = y.pc ∧ u.me.pc = y.tr.tvec + 0x40)) ∧
      (∀ y, v.taperWalk q 16 q true → (k.descAt (k.descriptor q.q.val)).reserve = false → s.strand w.2 = some y →
        let d := k.descAt (k.descriptor q.q.val)
        Gives (.taper q) s (fun z => z.me.pc = y.pc + 4 ∧ ∃ k', z.crewOf q.gang q.peer = some k' ∧ k'.pushers = k.pushers.erase w ∧
          k'.mg = writeDesc (k.mg.writeBytes (d.base + d.slots * d.size) (leBytes 4 y.sch.offer.toNat)) (k.descriptor q.q.val)
            { d with reserve := true })))

/-- R103, R240, R247, R250, R254, R255, R266, R282: an access in flight whose pairs of the interposer carry flits. A load or a store of a granule
that its home holds is performed there; without a translation a walk follows once a walker is free, which fills the TLB or gives Page Fault; the
reply writes the pending register or the lanes; a prefetch goes away. Where the spec leaves it open, this is the model's reading: log entries 30,
64, 89, 102 and 107. -/
def Obligations.AccessEvents : Prop :=
  ∀ (s : State) (a : Access) (x : Strand) (l : LlcLine),
    let va := a.va.toNat
    let chip := s.home va
    let off := va % 256
    let found := s.access.find? (fun b => b.n == a.n) = some a
    let plain := s.ready a.n = some a ∧ a.space = 0 ∧ aperture a.va = false ∧ Pol.acquire a.pol = false ∧ Pol.release a.pol = false ∧
      s.pathHeld a = false
    let served := Leaf.isHost l.leaf = false ∨ ((Table.get s.host.pasid a.asid.toNat 0).getLsbD 31 ∧ (s.biasOf a.asid va).any (fun b => b.busy) = false)
    let uncached := s.l1Serve a = none ∧ (s.gauOf a.strand.core.die).find? (fun g => g.is a.gang (va / 256) a.asid) = none
    let reached := s.reachesHome a.strand.core.die va
    let held := (s.chip chip).llc.find? (fun k => k.granule == va / 256 && k.asid == a.asid) = some l
    (plain → reached → a.kind = .load → uncached → held → served → permits l.leaf needRead a.sup →
      Gives (.homeAccess a.n) s (fun t =>
        (∀ b ∈ t.access, b.n = a.n → b.status = .done (BitVec.ofNat 64 (ofLe (slice l.data off a.size)))) ∧
        t.access.map (fun b => b.n) = s.access.map (fun b => b.n) ∧ t.me = s.me ∧ t.rest = s.rest ∧ SameBytes s t)) ∧
    (plain → reached → a.kind = .store → held → served → permits l.leaf needWrite a.sup →
      Gives (.homeAccess a.n) s (fun t =>
        (∃ k, (t.chip chip).llc.find? (fun k => k.granule == va / 256 && k.asid == a.asid) = some k ∧ k.dirty ∧
          k.data = patch l.data off (leBytes a.size a.data.toNat)) ∧ (∀ b ∈ t.access, b.n ≠ a.n) ∧ SameBytes s t)) ∧
    (plain → reached → a.kind = .store → held → Leaf.isHost l.leaf = false → permits l.leaf needWrite a.sup = false →
      Gives (.homeAccess a.n) s (fun t => (∀ b ∈ t.access, b.n = a.n → b.status = .faulted 0x09) ∧ t.me = s.me ∧ t.rest = s.rest ∧ SameBytes s t)) ∧
    (plain → reached → a.kind = .load ∧ uncached ∨ a.kind = .store → (s.chip chip).llc.find? (fun k => k.granule == va / 256 && k.asid == a.asid) = none →
      s.tlbFind chip a.asid va = none →
      Gives (.homeAccess a.n) s (fun t => (∀ b ∈ t.access, b.n = a.n → b.status = .walking) ∧ t.me = s.me ∧ t.rest = s.rest ∧ SameBytes s t)) ∧
    (s.access.find? (fun b => b.n == a.n && b.status == .walking && s.hasWalker b) = some a →
      (∀ e c n, s.walk a.asid va = .leaf e false c n →
        Gives (.tableWalk a.n) s (fun t => (∃ k, t.tlbFind chip a.asid va = some k ∧ k.leaf = e ∧ k.big = false) ∧
          (∀ b ∈ t.access, b.n = a.n → b.status = .issued) ∧ t.me = s.me ∧ t.rest = s.rest ∧ SameBytes s t)) ∧
      ((∀ e g c n, s.walk a.asid va ≠ .leaf e g c n) →
        Gives (.tableWalk a.n) s (fun t => (∀ b ∈ t.access, b.n = a.n → b.status = .faulted 0x08) ∧ t.chips = s.chips ∧ t.me = s.me ∧ SameBytes s t))) ∧
    ((∀ b ∈ s.access, b.n = a.n → b.status = .walking → s.hasWalker b = false) → Gives (.tableWalk a.n) s (fun t => t = s)) ∧
    (s.access.find? (fun b => b.n == a.n && b.status == .reviving) = some a →
      ∀ u r, s.revive a.asid va = (u, r) → Gives (.pageRevival a.n) s (fun t =>
        t = (match r with | some cause => u.homeStatus a (.fault cause) | none => u.setStatus a.n .issued))) ∧
    (∀ d sign v, found → a.origin = .scalar d sign → a.status = .done v → s.strand a.strand = some x →
      Gives (.scalarLoadReply a.n) s (fun t => (∀ b, b ∈ t.access ↔ b ∈ s.access ∧ b.n ≠ a.n) ∧ ∃ y, t.strand a.strand = some y ∧
        (d ≠ 0 → y.s[d] = extendLoad sign a.size v) ∧ (∀ r, r ≠ d → y.s[r] = x.s[r]) ∧ y.pc = x.pc ∧
        (∀ p, p ∈ y.pend ↔ p ∈ x.pend ∧ p.2 ≠ .reply a.n) ∧ SameBytes s t)) ∧
    (∀ t n f, s.strand t = some x → s.lockFault x = none → s.faultList x = [f] → f.isFaulted → f.n = n → x.replay = [] → x.tr.sup = false →
      (∀ b ∈ s.access, b.strand = t → b.isScalar → b.space = 0 → b.kind.plain → b.n = n) →
      Gives (.scalarFaultReply t) s (fun u => (∃ y, u.strand t = some y ∧ y.replay = [f] ∧ y.behind = [] ∧ y.s = x.s ∧ y.pc = x.pc) ∧
        (∀ b ∈ u.access, b.n ≠ n) ∧ SameBytes s u)) ∧
    (∀ lane op from' v (o : LaneOp) dst, s.access.filter (fun b => (match b.origin with | .lane p _ => p == op | .scalar _ _ => false) && s.replyFrom b == from') = [a] →
      a.origin = .lane op lane → a.status = .done v → s.strand a.strand = some x → x.lq.ops.find? (fun p => p.n == op) = some o → o.dst = some dst →
      o.faulted = 0 → o.act &&& ~~~(o.arrived ||| (1#96 <<< lane.val)) = 0 →
      Gives (.laneLoadReply op from') s (fun t => (∀ b ∈ t.access, b.n ≠ a.n) ∧ ∃ y, t.strand a.strand = some y ∧ y.pc = x.pc ∧ y.s = x.s ∧
        (∀ p ∈ y.lq.ops, p.n ≠ o.n) ∧ Wrote x.lf y.lf dst o.ty.wide o.act (fun k =>
          match (o.vals ++ [(lane.val, v)]).find? (fun p => p.1 == k.val) with | some p => imageOf o.ty p.2.toNat | none => 0) ∧ SameBytes s t)) ∧
    (∀ l1, found → a.kind = .prefetch l1 → reached → s.walkersBusy a.asid va = false → Gives (.prefetchFill a.n) s (fun t => (∀ b ∈ t.access, b.n ≠ a.n) ∧ t.me = s.me ∧ t.rest = s.rest ∧ t.crews = s.crews))

/-- R236–R238, R241, R283–R290, R256: atomics and peer accesses are performed whole where their bytes are served, and a shootdown leaves no copy of
the translations and granules of its range. Where the spec leaves it open, this is the model's reading: log entries 64, 73 and 89. -/
def Obligations.AtomicAndMaintenanceEvents : Prop :=
  ∀ (s : State) (a : Access) (l : LlcLine) (g : GauLine) (c : Crew),
    let va := a.va.toNat
    let chip := s.home va
    let off := va % 256
    let atomic := (∃ op, a.kind = .atomic op true) ∨ a.kind = .cas
    let global := s.ready a.n = some a ∧ a.space = 0 ∧ aperture a.va = false ∧ Pol.acquire a.pol = false ∧ Pol.release a.pol = false ∧
      s.pathHeld a = false
    let served := Leaf.isHost l.leaf = false ∨ ((Table.get s.host.pasid a.asid.toNat 0).getLsbD 31 ∧ (s.biasOf a.asid va).any (fun b => b.busy) = false)
    let old := slice l.data off a.size
    let answered := fun (t : State) (bs : List Byte) => ∀ b ∈ t.access, b.n = a.n → b.status = .done (BitVec.ofNat 64 (ofLe bs))
    (global → s.reachesHome a.strand.core.die va → atomic → 3 ≤ Pol.scope a.pol → (∀ k ∈ s.gauOf a.strand.core.die, k.is a.gang (va / 256) a.asid = false) →
      (s.chip chip).llc.find? (fun k => k.granule == va / 256 && k.asid == a.asid) = some l → served → permits l.leaf needBoth a.sup →
      Gives (.homeAtomic a.n) s (fun t => answered t old ∧
        (∃ k, (t.chip chip).llc.find? (fun k => k.granule == va / 256 && k.asid == a.asid) = some k ∧
          k.data = (match a.update old with | some new => patch l.data off new | none => l.data)) ∧
        (∀ k ∈ (t.core a.strand.core).l1, ¬ (k.granule = va / 256 ∧ k.asid = a.asid)) ∧ t.me = s.me ∧ t.rest = s.rest ∧ SameBytes s t)) ∧
    (global → atomic → Pol.scope a.pol < 3 → (s.gauOf a.strand.core.die).find? (fun k => k.is a.gang (va / 256) a.asid) = some g →
      Gives (.gauAtomic a.n) s (fun t => answered t (slice g.data off a.size) ∧
        (∃ k, (t.gauOf a.strand.core.die).head? = some k ∧ k.is a.gang (va / 256) a.asid ∧
          k.data = (match a.update (slice g.data off a.size) with | some new => patch g.data off new | none => g.data)) ∧
        t.chips = s.chips ∧ t.me = s.me ∧ t.rest = s.rest ∧ SameBytes s t)) ∧
    (s.ready a.n = some a → (∀ b ∈ s.access, b.n = a.n → b = a) → a.space = 6 → a.isScalar → Pol.acquire a.pol = false → Pol.release a.pol = false →
      s.crewOf a.gang (wordBits a.va 23 18) = some c → s.wakingAt c 1 (wordBits a.va 17 0) a.size = false →
      let at' := wordBits a.va 17 0
      let before := c.mg.bytes at' a.size
      (atomic → Gives (.bankAluAtomic a.n) s (fun t => answered t before ∧ ∃ k, t.crewOf a.gang (wordBits a.va 23 18) = some k ∧
        k.mg = (match a.update before with | some new => c.mg.writeBytes at' new | none => c.mg) ∧ OtherCrews s t a.gang (wordBits a.va 23 18) ∧
        t.me = s.me ∧ t.rest = s.rest)) ∧
      (a.kind = .load → Gives (.peerGAccess a.n) s (fun t => answered t before ∧ t.me = s.me ∧ t.rest = s.rest ∧ SameBytes s t)) ∧
      (a.kind = .store → Gives (.peerGAccess a.n) s (fun t => (∀ b ∈ t.access, b.n ≠ a.n) ∧ (∃ k, t.crewOf a.gang (wordBits a.va 23 18) = some k ∧
        k.mg = c.mg.writeBytes at' (leBytes a.size a.data.toNat)) ∧ OtherCrews s t a.gang (wordBits a.va 23 18)))) ∧
    (s.access.find? (fun b => b.n == a.n && b.kind == .operation && b.status == .issued) = some a →
      let lo := if 3 ≤ a.cmp.toNat then 0 else va
      let hi := if 3 ≤ a.cmp.toNat then 2 ^ 64 else va + 65536 * a.data.toNat
      s.nearCovers a.asid lo hi = false →
      Gives (.shootdown a.n) s (fun t => (∀ b ∈ t.access, b.n = a.n → b.status = .done 0) ∧
        (∀ m ∈ s.ddb.chips, (∀ k ∈ (t.chip m).llc, ¬ (k.asid = a.asid ∧ inRange k.granule lo hi)) ∧
          (∀ k ∈ (t.chip m).tlb, ¬ (k.asid = a.asid ∧ k.meets lo hi))) ∧
        (∀ d, ∀ k ∈ t.gauOf d, ¬ (k.asid = a.asid ∧ inRange k.granule lo hi)) ∧
        (∀ e ∈ t.cores, (∀ k ∈ e.2.l1, ¬ (k.asid = a.asid ∧ inRange k.granule lo hi)) ∧ (∀ k ∈ e.2.fetch, ¬ (k.asid = a.asid ∧ inRange k.granule lo hi))) ∧
        t.me = s.me ∧ t.rest = s.rest))

/-- R158, R161–R163, R185, R187, R188, R478–R480, R482, R502–R506: work enters and leaves. Intake admits a good block to the window, writes the
reason of a bad one and counts a known one as dropped; a claim or an admission places a gang with its strands at their entry values, which issue at
once but for those of a field that is still admitting; a gang whose strands have retired is freed; a drained gang is recorded, leaves once all gangs
of its request are recorded, and goes on where a write of its record faults; a saved one comes back. Where the spec leaves it open, this is the
model's reading: log entries 56, 57, 59, 60, 61, 91 and 104; that a count which faults still frees the gang is log entry 91, the model's choice. -/
def Obligations.LaunchEvents : Prop :=
  ∀ (s : State) (f : Field) (die : Fin 8) (o : Nat × Nat) (g : GangId) (k : Gang),
    let gang := fun (n : Nat) => (⟨f.block, f.asid, n⟩ : GangId)
    let freed := fun (x : Strand) => x.withSched (fun c => { c with hold := false, readyAt := 0 })
    let dropped := fun (t : State) => t.fields = s.fields ∧ t.host.llDrop = s.host.llDrop + 1 ∧ 2 ∈ t.host.raised ∧ t.me = s.me ∧ t.rest = s.rest
    let placed := fun (t : State) (n : Nat) (held : Bool) =>
      (∃ cs, t.crews = s.crews ++ cs ∧ cs.map (fun c => c.core) = rectangle die o.1 o.2 f.lw f.lh ∧
        ∀ c ∈ cs, c.gang = gang n ∧ c.g = f.g ∧ c.w = f.w ∧ c.a = f.a ∧ c.c = f.c ∧ c.mg = [] ∧ c.mw = [] ∧ c.ma = [] ∧ c.mc = []) ∧
      (∃ old xs, t.rest = old ++ xs ∧ old.map freed = s.rest.map freed ∧ xs.length = 2 ^ f.lw * 2 ^ f.lh * (f.nstr + 1) ∧
        ∀ x ∈ xs, x.who.gang = gang n ∧ x.live ∧ x.pc = f.entry ∧ x.s = entryScalars f.args f.lane0 ∧ x.sy.asid = f.asid ∧ x.sy.prio = f.prio ∧
          x.sy.lcb = (f.lcb &&& 0xFFFFFFFFFFFFFFC0#64) ∧ x.tr.tvec = (f.tvec &&& 0xFFFFFFFFFFFFFFC0#64) ∧ x.tr.sup = false ∧ x.lq.runs = [] ∧
          x.sch.hold = held) ∧
      freed t.me = freed s.me ∧ ∃ k ∈ t.gangs, k.id = gang n ∧ k.die = die ∧ k.x0 = o.1 ∧ k.y0 = o.2
    (∀ base entries r v at' first block asid, s.ddb.ready → (s.fields.filter (fun f => f.window)).length < 16 → s.launchList = some (base, entries) →
      s.listReady = (r, true) → r.headEntry base entries = (v, some (at', first, block, asid)) →
      (s.knownField block asid ∨ blockPlain block = false → Gives .launchIntake s dropped) ∧
      (∀ p w, s.knownField block asid = false → blockPlain block → v.pageReady asid block.toNat needBoth = (p, true) → p.readBlock block asid = (w, none) →
        Gives .launchIntake s dropped) ∧
      (∀ p w ws, s.knownField block asid = false → blockPlain block → v.pageReady asid block.toNat needBoth = (p, true) →
        p.readBlock block asid = (w, some ws) →
        (∀ reason z, w.refusal ws (fieldOfBlock block asid ws) = some reason → w.refuse block asid reason = (z, false) → Gives .launchIntake s dropped) ∧
        (w.refusal ws (fieldOfBlock block asid ws) = none →
          Gives .launchIntake s (fun t => t.fields = s.fields ++ [fieldOfBlock block asid ws] ∧ t.me = s.me ∧ t.rest = s.rest)) ∧
        (∀ reason z, w.refusal ws (fieldOfBlock block asid ws) = some reason → w.refuse block asid reason = (z, true) →
          Gives .launchIntake s (fun t => t.fields = s.fields ∧ t.host.llDrop = s.host.llDrop ∧ t.me = s.me ∧ t.rest = s.rest)))) ∧
    (s.ddb.ready → die ∈ s.liveDies → s.fields = [f] → f.window → f.saved = [] → s.originFor f die = some o →
      ∀ u v n, s.blockReady f = (v, true) → v.takeTicket f = (u, some n) → n < f.fx * f.fy →
      (f.ended = none → die ∉ f.known → (f.cls = 1 ∨ f.cls = 2) → (∀ j ∈ s.gangs, j.id ≠ gang n) → (∀ c ∈ s.crews, c.gang ≠ gang n) →
        (∀ c ∈ rectangle die o.1 o.2 f.lw f.lh, (s.core c).waking = []) → Gives (.gangClaim die) s (fun t => placed t n false)) ∧
      (f.cls = 0 → f.go = false → n + 1 < f.fx * f.fy → Gives (.concurrentAdmission die) s (fun t => placed t n true ∧ t.fields = [f]))) ∧
    (∀ u, s.gangOf g = some k → g ≠ processors → (∀ x ∈ s.strands, x.who.gang = g → x.sch.retired) → k.draining = false → s.gangQuiet g → k.fatal = none →
      s.pageReady g.asid (g.block.toNat + 0x38) needBoth = (u, true) →
      Gives (.gangRetire g) s (fun t => (∀ x ∈ t.strands, x.who.gang ≠ g) ∧ (∀ c ∈ t.crews, c.gang ≠ g) ∧ (∀ j ∈ t.gangs, j.id ≠ g) ∧
        (∀ x ∈ s.strands, x.live → x.who.gang ≠ g → x ∈ t.strands) ∧ (∀ a ∈ t.access, a.gang ≠ g))) ∧
    (∀ u c, s.gangOf g = some k → s.fieldOf g = some f → k.draining → k.recorded = false → s.drainedGang g → k.ending = false →
      s.saveArea f = (u, .fault c) →
      Gives (.preEmptionDrain g) s (fun t => t.gangs = s.gangs.map (fun j => if j.id ∈ s.host.draining then { j with draining := false, recorded := false } else j) ∧
        t.host.draining = [] ∧ t.fields = s.fields ∧ t.strands.map (fun x => x.who) = s.strands.map (fun x => x.who))) ∧
    (∀ u area p, s.gangOf g = some k → s.fieldOf g = some f → k.draining → k.recorded = false → s.drainedGang g → k.ending = false →
      s.saveArea f = (u, .base area) →
      let v := ((u.strands.filter (fun x => x.who.gang == g)).foldl (fun (u : State) x => u.leaveWait x) u).gauWriteBack k.die true (fun l => l.gang == g)
      let words := (v.crews.filter (fun c => c.gang == g)).flatMap (fun c => v.crewBlock c area k.nstr (2 ^ k.lw * 2 ^ k.lh))
      v.pagesReady f.asid needWrite (words.map (fun p => p.1 / 65536 * 65536)).eraseDups = (p, true) →
      let written := ({ p with fresh := p.fresh + 1 } : State).homeSetAll f.asid true words
      (written.2 → s.host.draining = [g] →
        Gives (.preEmptionDrain g) s (fun t => (∀ x ∈ t.strands, x.who.gang ≠ g) ∧ (∀ c ∈ t.crews, c.gang ≠ g) ∧ (∀ j ∈ t.gangs, j.id ≠ g) ∧
          t.host.draining = [] ∧ ∃ f' ∈ t.fields, f'.block = g.block ∧ f'.asid = g.asid ∧ f'.window ∧ ∃ e ∈ f'.saved, e.gang.id = g)) ∧
      (written.2 → (∃ j ∈ s.gangs, j.id ∈ s.host.draining ∧ j.id ≠ g ∧ j.recorded = false) →
        Gives (.preEmptionDrain g) s (fun t => (∃ j ∈ t.gangs, j.id = g ∧ j.recorded ∧ j.draining) ∧ t.host.draining = s.host.draining ∧
          t.strands.map (fun x => x.who) = s.strands.map (fun x => x.who))) ∧
      (written.2 = false →
        Gives (.preEmptionDrain g) s (fun t => t.gangs = s.gangs.map (fun j => if j.id ∈ s.host.draining then { j with draining := false, recorded := false } else j) ∧
          t.host.draining = [] ∧ t.fields = s.fields ∧ t.strands.map (fun x => x.who) = s.strands.map (fun x => x.who)))) ∧
    (∀ e r u area w cs xs, s.fieldOf g = some f → f.cls ≠ 0 → f.saved.find? (fun v => v.gang.id == g) = some e → die ∈ s.liveDies → f.lowestSaved g →
      s.admitting = none → s.savedReady f e = (r, true) → r.originSaved f e die = some o → r.saveArea f = (u, .base area) →
      u.readCrews e area [] [] e.crews = (w, .ok (cs, xs)) →
      Gives (.gangRestore g die) s (fun t => (∃ j ∈ t.gangs, j.id = g ∧ j.die = die ∧ j.x0 = o.1 ∧ j.y0 = o.2) ∧
        t.rest.length = s.rest.length + xs.length ∧ t.crews.length = s.crews.length + cs.length ∧
        (∀ f' ∈ t.fields, f'.block = f.block → f'.asid = f.asid → ∀ v ∈ f'.saved, v.gang.id ≠ g)))

/-- R341–R347, R352, R357–R359, R362, R363, R372–R380, R394–R401, R421–R436: the engines at work. A command goes on chunk by chunk or step by step;
the last one makes its operation complete; a fault stops the command and is recorded for its strand. Where the spec leaves it open, this is the
model's reading: log entries 9, 10, 12, 34, 38, 39, 40, 43, 44, 92, 94 and 105. -/
def Obligations.EngineEvents : Prop :=
  ∀ (s : State) (c : CoreId) (n : Nat) (arr : Fin 4) (crew : Crew),
    let core := s.core c
    let d := core.dme
    let done := fun (t : State) (strand : StrandId) (n : Nat) =>
      ∀ x, t.strand strand = some x → ∀ o ∈ x.ops, o.n = n → o.done
    let faulted := fun (t : State) (strand : StrandId) (n : Nat) (cause : BitVec 8) =>
      ∀ x, t.strand strand = some x → ∃ f ∈ x.faults, f.op = n ∧ f.cause = cause
    let ending := fun (g : GangId) => (s.gangOf g).any (fun x => x.ending)
    (∀ k : CopyCmd, core.copies.find? (fun j => j.n == n && j.kind != 2) = some k → s.copyReady c k → ending k.gang = false →
      let cp := copyOf (k.kind == 1) k.lay k.regs
      ∀ u old r, ((k.kind ≠ 1 ∧ s.moveChunk [] false k.agent cp.ssp cp.dsp (cp.elementMoves k.chunk) = (u, old, r)) ∨
        (k.kind = 1 ∧ ∃ v ms, s.rowMoves k.agent cp [] (cp.chunkRows k.chunk) = (v, .list ms) ∧ v.moveChunk k.old true k.agent cp.ssp cp.dsp ms = (u, old, r))) →
      Gives (.copyOperation c n) s (fun t => (match r with
        | .bytes _ => (k.chunk + 1 < cp.chunks → ∃ j ∈ (t.core c).copies, j.n = n ∧ j.chunk = k.chunk + 1 ∧ j.begun = false ∧
              j.state = (if s.drains k.gang || s.copyHeld k.strand then .queued else .running)) ∧
            (cp.chunks ≤ k.chunk + 1 → (∀ j ∈ (t.core c).copies, j.n ≠ n) ∧ done t k.strand n)
        | .fault _ ea => (∃ j ∈ (t.core c).copies, j.n = n ∧ j.state = .faulted) ∧
            (∀ x, t.strand k.strand = some x → ∃ f ∈ x.faults, f.op = n ∧ f.cause = 0x21 ∧ f.eaddr = ea)
        | .wait => ∃ j ∈ (t.core c).copies, j.n = n ∧ j.chunk = k.chunk ∧ j.begun) ∧ t.dram = u.dram ∧ t.crews = u.crews)) ∧
    (∀ k : CopyCmd, core.copies.find? (fun j => j.n == n && j.kind == 2) = some k → s.copyReady c k → ending k.gang = false →
      ∀ u bad left, s.copyLanes k.agent k.space.toNat k.bad [] (k.lanes.filter (fun e => !k.bad.any (fun b => b.1 == e.1))) = (u, bad, left) →
      let failed := k.lanes.filter (fun e => bad.any (fun b => b.1 == e.1))
      Gives (.lcopyOperation c n) s (fun t => t.dram = u.dram ∧ t.crews = u.crews ∧
        (bad = [] → left = [] → (∀ j ∈ (t.core c).copies, j.n ≠ n) ∧ done t k.strand n) ∧
        (left ≠ [] → ∃ j ∈ (t.core c).copies, j.n = n ∧ j.lanes = failed ++ left ∧ j.bad = bad ∧ j.state = .running) ∧
        (bad ≠ [] → left = [] → (∃ j ∈ (t.core c).copies, j.n = n ∧ j.lanes = failed ∧ j.state = .faulted) ∧ faulted t k.strand n 0x21))) ∧
    (∀ (k : DmeCmd) (q : List DmeCmd), d.queue = k :: q → s.matrixReady k → s.crewOf k.gang k.peer = some crew → (∀ j ∈ q, j.n ≠ k.n) →
      let gone := fun (t : State) => (t.core c).dme.queue = q ∧ done t k.strand k.n
      let v := k.regs.getD 0 0
      (k.op = .mlds → s.bankWaits crew k.parts = false → Gives (.dmeCommandExecute c) s (fun t => gone t ∧ (t.core c).dme.active = d.active ∧ SameBytes s t ∧
        (t.core c).dme.shadow = { loaded := true, mode := k.regs.getD 1 0, off := wordBits v 17 0
                                  bytes := crew.mw.bytes (wordBits v 17 0) (MatrixMode.planeBytes (k.regs.getD 1 0)) })) ∧
      (k.op = .mswap → Gives (.dmeCommandExecute c) s (fun t => gone t ∧ (t.core c).dme.active = d.shadow ∧ (t.core c).dme.shadow = d.active ∧ SameBytes s t)) ∧
      (k.op = .cclr → s.bankWaits crew k.parts = false → Gives (.dmeCommandExecute c) s (fun t => gone t ∧ OtherCrews s t k.gang k.peer ∧ ∃ z, t.crewOf k.gang k.peer = some z ∧
        z.mg = crew.mg ∧ z.mw = crew.mw ∧ z.ma = crew.ma ∧
        ∀ i, z.mc.read i = if wordBits v 17 0 ≤ i ∧ i < wordBits v 17 0 + 1024 * (wordBits v 39 32 + 1) then 0 else crew.mc.read i)) ∧
      (k.op = .cstore → (s.copyHeld k.strand = false ∨ k.begun) → ending k.gang = false →
        let p := storeOf k.regs
        let tile := p.tile k.lay
        s.bankWaits crew p.source = false →
        ∀ u i fl r, s.storeRows k.agent crew p tile 0 0 (tile.chunkRows k.step) = (u, i, fl, r) →
        Gives (.dmeCommandExecute c) s (fun t => (t.core c).dme.active = d.active ∧ (t.core c).dme.shadow = d.shadow ∧ (match r with
          | .bytes _ => t.dram = u.dram ∧ t.crews = u.crews ∧ (tile.chunks ≤ k.step + 1 → gone t) ∧
              (k.step + 1 < tile.chunks → (t.core c).dme.queue = { k with step := k.step + 1, begun := false, state := .running } :: q)
          | .wait => t.dram = u.dram ∧ t.crews = u.crews ∧ (t.core c).dme.queue = { k with begun := true, state := .running } :: q
          | .fault _ ea => (t.core c).dme.queue = { k with begun := false, state := .faulted } :: q ∧
              (∀ x, t.strand k.strand = some x → ∃ f ∈ x.faults, f.op = k.n ∧ f.cause = 0x21 ∧ f.eaddr = ea)))) ∧
      (k.op = .mloop →
        let l := loopOf k.regs
        s.bankWaits crew (l.parts d.active.mode k.step) = false →
        let r := loopRows crew d.active.mode d.active.bytes l k.step
        Gives (.mloopStep c) s (fun t => (∃ z, t.crewOf k.gang k.peer = some z ∧ z.mc = r.1.mc ∧ z.mg = r.1.mg ∧ z.mw = r.1.mw ∧ z.ma = r.1.ma) ∧
          OtherCrews s t k.gang k.peer ∧
          (l.steps ≤ k.step + 1 → gone t ∧ (t.core c).dme.active = d.active ∧ (t.core c).dme.shadow = d.shadow) ∧
          (k.step + 1 < l.steps → (t.core c).dme.queue = { k with step := k.step + 1, state := .running } :: q ∧ (t.core c).dme.shadow = d.active ∧
            (t.core c).dme.active = { loaded := true, mode := d.active.mode, off := l.w + k.step * l.dw
                                      bytes := crew.mw.bytes (l.w + k.step * l.dw) (MatrixMode.planeBytes d.active.mode) })))) ∧
    (∀ p ps, d.waiting = p :: ps → d.granted = none → (∀ o, d.owner = some o → ∀ x ∈ s.strands, x.crew = o → x.count 4 = 0) →
      Gives (.dmeOwnershipPass c) s (fun t => (t.core c).dme.owner = some p.crew ∧ (t.core c).dme.granted = some p.strand ∧
        (∀ w, w ∈ (t.core c).dme.waiting ↔ w ∈ ps ∧ w.crew ≠ p.crew) ∧ (t.core c).dme.queue = d.queue ∧ (t.core c).dme.active = .empty ∧
        (t.core c).dme.shadow = .empty ∧ SameBytes s t)) ∧
    (∀ k : AnaCmd, s.analogHead c arr = some k → s.crewOf k.gang k.peer = some crew → (∀ j ∈ core.analog, j.n = k.n → j = k) →
      let a := s.array c arr
      let gone := fun (t : State) => (∀ j ∈ (t.core c).analog, j.n ≠ k.n) ∧ done t k.strand k.n
      let failed := fun (t : State) (cause : BitVec 8) => (∃ j ∈ (t.core c).analog, j.n = k.n ∧ j.state = .faulted) ∧ faulted t k.strand k.n cause
      (k.op = .xprog → s.bankWaits crew [(3, wordBits (k.regs.getD 0 0) 18 0 + 512 * k.row, 512)] = false → Gives (.xprogExecute c arr) s (fun t => SameBytes s t ∧
        (wordBits (k.regs.getD 0 0) 56 48 ≤ k.row → gone t) ∧
        (k.row < wordBits (k.regs.getD 0 0) 56 48 → ∃ j ∈ (t.core c).analog, j.n = k.n ∧ j.row = k.row + 1 ∧ j.state = .running))) ∧
      (k.op = .xmvm → s.bankWaits crew [(3, (mvmOf k.regs).ia, (mvmOf k.regs).n), (5, (mvmOf k.regs).ob, 8 * (mvmOf k.regs).nc)] = false →
        Gives (.xmvmExecute c arr) s (fun t =>
        (a.valid = false → failed t 0x19 ∧ SameBytes s t) ∧
        (a.valid → Config.parityError s.fresh → failed t 0x19 ∧ (t.array c arr).valid = false ∧ SameBytes s t) ∧
        (a.valid → Config.parityError s.fresh = false →
          let m := mvmOf k.regs
          let p : Product := { xs := (crew.ma.bytes m.ia m.n).map byteInt, r := m.r, sx := m.sx }
          let drifts := p.drifts (p.deviation s.fresh 0) || p.drifts (p.deviation s.fresh 1)
          (drifts → failed t 0x18 ∧ SameBytes s t) ∧
          (drifts = false → gone t ∧ OtherCrews s t k.gang k.peer ∧ ∃ z, t.crewOf k.gang k.peer = some z ∧ z.mg = crew.mg ∧ z.mw = crew.mw ∧ z.ma = crew.ma ∧
            z.mc = (productEntries crew p { a with d0 := sat32 (p.deviation s.fresh 0), d1 := sat32 (p.deviation s.fresh 1) } m s.fresh).mc)))) ∧
      (k.op = .xtrim → Gives (.xtrimExecute c arr) s (fun t => SameBytes s t ∧ (t.array c arr).ops = 0 ∧
        (t.array c arr).valid = decide (Config.trimError s.fresh ≤ 192) ∧
        (Config.trimError s.fresh ≤ 192 → gone t) ∧ (192 < Config.trimError s.fresh → failed t 0x19))) ∧
      (k.op = .xcal → Gives (.xcalExecute c arr) s (fun t => SameBytes s t ∧
        (Config.parityError s.fresh → failed t 0x19) ∧
        (Config.parityError s.fresh = false → gone t ∧ ∀ x, t.strand k.strand = some x →
          (k.d ≠ 0 → x.s[k.d] = a.item (wordBits (k.regs.getD 0 0) 9 0)) ∧ ∀ r, (r, Source.reply k.n) ∉ x.pend)))) ∧
    (∀ k : NearCmd, core.near.find? (fun j => j.n == n) = some k → (∀ j ∈ core.near, j.n = n → j = k) →
      let gone := fun (t : State) => ∀ j ∈ (t.core c).near, j.n ≠ n
      let row := k.op = .nrowZero ∨ k.op = .nrowCopy
      let lo := (k.regs.getD 0 0).toNat
      (k.stage = .queued → (s.nearReady k = false → Gives (.nearPhase1 c n) s (fun t => t = s)) ∧
        (s.nearReady k → Gives (.nearPhase1 c n) s (fun t => (∃ j ∈ (t.core c).near, j = { k with stage := .checking }) ∧ SameBytes s t))) ∧
      (∀ u leaves, k.stage = .checking → row → s.nearBusy k.asid (footprint k 0 0) = none → s.nearPages k.asid k.sup [] none (s.allPages (footprint k 0 0)) = (u, leaves, none) →
        Gives (.nearPhase1 c n) s (fun t => ∃ j ∈ (t.core c).near,
          j = { k with stage := .agreed, base := 0, pages := 0, program := [], leaves := leaves, granules := [] })) ∧
      (∀ u leaves cause va chip, k.stage = .checking → row → s.holdsOp n → s.nearBusy k.asid (footprint k 0 0) = none →
        s.nearPages k.asid k.sup [] none (s.allPages (footprint k 0 0)) = (u, leaves, some (cause, va, chip)) →
        Gives (.nearPhase1 c n) s (fun t => (∃ j ∈ (t.core c).near, j.n = n ∧ j.stage = .faulted) ∧
          ∀ x, t.strand k.strand = some x → (∃ o ∈ x.ops, o.n = n) → ∃ f ∈ x.faults, f.op = n ∧ f.cause = 0x20)) ∧
      (k.stage = .agreed → (row ∨ k.op = .nlaunch) → Gives (.nearPhase2 c n) s (fun t => ∃ j ∈ (t.core c).near, j.n = n ∧ j.stage = .running ∧
        (k.op = .nrowZero → ∀ m ∈ s.ddb.chips, ∀ i e, i < wordBits (k.regs.getD 2 0) 15 0 →
          k.leaves.find? (fun p => p.1 == m && p.2.1 == lo + 65536 * i) = some e →
          ∀ q, q < 4 * s.span → ⟨m, 4096 * Leaf.frame e.2.2 + 1024 * q, none, 1024⟩ ∈ j.moves))) ∧
      (k.stage = .running → k.op = .nlaunch →
        (k.pieces = [] → k.waves = [] → Gives (.nearPhase2 c n) s (fun t => gone t ∧ SameBytes s t)) ∧
        ((k.pieces ≠ [] ∨ k.waves ≠ []) → Gives (.nearPhase2 c n) s (fun t => ∃ j ∈ (t.core c).near, j.n = n ∧ j.stage = .running))) ∧
      (k.stage = .running → row →
        (k.moves = [] → Gives (.nearPhase2 c n) s (fun t => gone t ∧ SameBytes s t)) ∧
        (k.moves ≠ [] → Gives (.nearPhase2 c n) s (fun t => ∃ v ∈ k.moves, (∃ j ∈ (t.core c).near, j = { k with moves := k.moves.filter (fun w => w != v) }) ∧
          (v.src = none → ∀ i, i < 1024 → t.dram.read (dramKey v.chip (v.dst + i)) = 0) ∧
          (∀ a, v.src = some a → ∀ i, i < v.bytes → t.dram.read (dramKey v.chip (v.dst + i)) = s.plainByte 0 (dramKey v.chip (a + i)))))) ∧
      (∀ chip, k.stage = .running → k.op = .nred → chip ∈ s.ddb.chips → chip ∉ k.counted →
        ((∃ g ∈ k.granules, g.1 = chip) → Gives (.nredReduce c n chip) s (fun t => ∃ g ∈ k.granules, g.1 = chip ∧ ∃ u srcs,
          ({ s with fresh := s.fresh + 1 } : State).granulesRead k [] ((k.regs.drop 3).map (fun v => v.toNat + g.2)) = (u, srcs) ∧
          (let r := reduceGranule ((k.regs.getD 2 0).getLsbD 40) srcs
           let w := ((u.countEvent (8 + chip) 6).heldApply k ((k.regs.getD 0 0).toNat + g.2) needWrite (fun _ => some r.1)).1
           t.dram = w.dram ∧ t.chips = w.chips ∧
           ∃ j ∈ (t.core c).near, j.n = n ∧ j.granules = k.granules.filter (fun h => h != g) ∧ j.counted = k.counted ∧ j.flags = k.flags ||| r.2))) ∧
        ((∀ g ∈ k.granules, g.1 ≠ chip) → Gives (.nredReduce c n chip) s (fun t =>
          ∃ j ∈ (t.core c).near, j = { k with counted := chip :: k.counted }))) ∧
      (∀ chip, k.stage = .running → k.op = .nred → chip ∈ s.ddb.chips → (∀ m ∈ s.ddb.chips, m ∈ k.counted) →
        Gives (.nredReduce c n chip) s (fun t => gone t)))

/-- R251, R253, R256, R471, R477, R492–R495, R499–R501, R529–R534: boot, measurement, the mailbox, the host's ring, its reads and writes, and the
host link. An event that finds no command of its kind changes nothing. Where the spec leaves it open, this is the model's reading: log entries 10,
33, 62, 63, 65, 66, 68, 72, 78, 99 and 113. That a released Lamplighter runs is log entry 66, that an SPDM answer is the last reply log entry 78,
that the digests are those of SHA-256 log entry 99: the model's choices. -/
def Obligations.BootAndHostEvents : Prop :=
  ∀ (s : State) (a0 a1 a2 w : Word64) (n : Nat) (data : List Byte) (flash : List FlashImage) (op : Byte) (k : Fin 64) (a : Access) (r : AtsReply),
    let c := s.sconce
    let replies := fun (i : Instr) (m : Spdm) =>
      (29 ∈ c.released → 28 ∈ c.released → Gives i s (fun t => t = { s with sconce := { c with reply := some m } })) ∧
      (29 ∉ c.released ∨ 28 ∉ c.released → Gives i s (fun t => t = s))
    let ringed := fun (t : State) (st : Nat) =>
      t.host.mem.read (s.host.hcrBase.toNat + 32 * (s.host.hcrHead.toNat % 2 ^ s.host.hcrSize.toNat) + 1) = BitVec.ofNat 8 st ∧
      t.host.hcrHead = BitVec.ofNat 64 ((s.host.hcrHead.toNat + 1) % 2 ^ s.host.hcrSize.toNat) ∧ 1 ∈ t.host.raised
    let e := c.operand
    let asid : BitVec 16 := a1.setWidth 16
    (c.stage = 0 →
      (goodImage flash 29 = none ∨ goodImage flash 28 = none → Gives (.sconceBoot flash) s (fun t => t.sconce.stage = 1 ∧ t.sconce.boots = c.boots + 1 ∧
        (∀ i, i < 28 → i ∉ c.released → i ∉ t.sconce.released) ∧ t.me = s.me ∧ SameBytes s t)) ∧
      (goodImage flash 29 ≠ none → goodImage flash 28 ≠ none → Gives (.sconceBoot flash) s (fun t => t.sconce.stage = 4 ∧
        t.sconce.boots = c.boots + 1 ∧
        (∀ i b, i < 30 → goodImage flash i = some b → i ∈ t.sconce.released ∧ Table.get t.sconce.measured (i + 1) 0 = Sha256.digest b) ∧
        (∀ i, i ∈ t.sconce.held ↔ i < 28 ∧ goodImage flash i = none) ∧ (∀ d : Fin 4, goodImage flash (24 + d.val) ≠ none → (t.lamp d).running) ∧
        t.me = s.me ∧ SameBytes s t))) ∧
    (c.stage = 4 → c.held = [] → c.leftOut = [] → (∀ i, i < 30 → i ∈ c.released) → Gives (.ddbPublish []) s (fun t =>
      t.ddb.ready ∧ t.ddb.dies = List.range 8 ∧ t.ddb.chips = List.range 16 ∧ t.ddb.fabrics = List.range 4 ∧ t.ddb.boots = c.boots ∧
      t.sconce.stage = 5 ∧ Table.get t.sconce.measured 31 0 = Sha256.digest t.ddbBytes ∧ t.me = s.me ∧ SameBytes s t)) ∧
    replies .getVersion .version ∧ replies .getCapabilities .capabilities ∧ replies .negotiateAlgorithms .algorithms ∧
    replies .getDigests (.digests Config.certificateDigest) ∧ replies .getCertificate (.certificate Config.certificateDigest) ∧
    replies (.challenge n) (.challengeAuth (Config.spdmSignature n)) ∧ replies (.unsupportedRequest op) .unsupported ∧
    (1 ≤ n ∧ n ≤ 32 → replies (.getMeasurements n) (.measurement n (Table.get c.measured n 0))) ∧
    (c.running 1 →
      (e ∈ c.held → c.chunkLength ≤ chunkSpace → Gives .imageChunk s (fun t => t =
        { s with sconce := { c with status := 1, images := Table.put c.images e (Table.get c.images e [] ++ c.chunk) } })) ∧
      (e ∉ c.held ∨ chunkSpace < c.chunkLength → Gives .imageChunk s (fun t => t = { s with sconce := { c with status := 2 } }))) ∧
    (c.running 2 →
      (e ∈ c.held → imagePasses (c.supplied e).1 (c.supplied e).2 → Gives .imageDone s (fun t => t.sconce.status = 1 ∧ e ∉ t.sconce.held ∧
        e ∈ t.sconce.released ∧ Table.get t.sconce.measured (e + 1) 0 = Sha256.digest (c.supplied e).1)) ∧
      (e ∉ c.held ∨ imagePasses (c.supplied e).1 (c.supplied e).2 = false →
        Gives .imageDone s (fun t => t = { s with sconce := { c with status := 2 } }))) ∧
    (c.running 3 →
      (e ∈ c.held → Gives .leaveOut s (fun t => t.sconce.status = 1 ∧ e ∉ t.sconce.held ∧ e ∈ t.sconce.leftOut ∧ Table.get t.sconce.measured (e + 1) 0 = 0)) ∧
      (e ∉ c.held → Gives .leaveOut s (fun t => t = { s with sconce := { c with status := 2 } }))) ∧
    (c.running 4 →
      (4 ≤ c.stage → Gives .keyslot s (fun t => t.sconce.status = 1 ∧ t.sconce.nextKey = c.nextKey + 1 ∧ t.dram = s.dram ∧
        Table.get t.sconce.keys (e % 64) 0 = (if e.testBit 6 then c.nextKey else 0))) ∧
      (c.stage < 4 → Gives .keyslot s (fun t => t = { s with sconce := { c with status := 2 } }))) ∧
    (∀ q ∈ [(Instr.imageChunk, 1), (.imageDone, 2), (.leaveOut, 3), (.keyslot, 4)], c.running q.2 = false → Gives q.1 s (fun t => t = s)) ∧
    (s.ringHead = some (1, a0, a1, a2) →
      (s.fields.find? (fun f => f.block == a0 && f.asid == asid) = none → Gives .preEmpt s (fun t => ringed t 3 ∧ t.gangs = s.gangs)) ∧
      (∀ f, s.fields.find? (fun f => f.block == a0 && f.asid == asid) = some f →
        let gs := s.requested f (wordBits a2 31 0)
        (gs = [] ∨ (f.cls = 0 ∧ f.go = false) → Gives .preEmpt s (fun t => ringed t 3 ∧ t.gangs = s.gangs)) ∧
        (gs ≠ [] → (f.cls = 0 → f.go) →
          (∀ u, s.noSaveArea f = (u, none) → Gives .preEmpt s (fun t => t = u)) ∧
          (∀ u, s.noSaveArea f = (u, some true) → Gives .preEmpt s (fun t => ringed t 1 ∧ t.gangs = s.gangs)) ∧
          (∀ u, s.noSaveArea f = (u, some false) → Gives .preEmpt s (fun t => t.host.draining = gs.map (fun g => g.id) ∧
            (∀ g ∈ t.gangs, g.id ∈ gs.map (fun g => g.id) → g.draining) ∧ (∀ x ∈ t.strands, x.who.gang ∈ gs.map (fun g => g.id) → x.sch.hold)))))) ∧
    (s.ringHead = some (2, a0, a1, a2) →
      (s.knownField a0 asid = false → Gives .endField s (fun t => ringed t 0 ∧ t.gangs = s.gangs ∧ t.fields = s.fields)) ∧
      (∀ u, s.knownField a0 asid → s.pageReady asid a0.toNat needBoth = (u, false) → Gives .endField s (fun t => t = u)) ∧
      (∀ u, s.knownField a0 asid → s.pageReady asid a0.toNat needBoth = (u, true) → Gives .endField s (fun t =>
        (∀ g ∈ t.gangs, g.id.block = a0 → g.id.asid = asid → g.ending) ∧
        ((∀ g ∈ s.gangs, ¬ (g.id.block = a0 ∧ g.id.asid = asid)) → ringed t 0) ∧
        ((∃ g ∈ s.gangs, g.id.block = a0 ∧ g.id.asid = asid) → t.host.ending = some (a0, asid) ∧ t.host.hcrHead = s.host.hcrHead) ∧
        (∀ x ∈ t.strands, x.who.gang ∈ s.gangs.map (fun g => g.id) → x.who.gang.block = a0 → x.who.gang.asid = asid → x.sch.retired) ∧
        (∀ f ∈ t.fields, f.block = a0 → f.asid = asid → f.saved = [] ∧ f.window = false)))) ∧
    (s.ringHead = some (3, a0, a1, a2) →
      let chip := wordBits a0 3 0
      let at' := 4096 * wordBits a0 27 4 + 8 * wordBits a0 36 28
      let old := s.entryRead chip at'
      (chip ∈ s.ddb.chips → wordBits a0 27 4 < framesPerChip → Leaf.kind old = 1 → Leaf.disc old →
        Gives .conditionalLeaf s (fun t => ringed t 0 ∧ t.entryRead chip at' = a1 ∧
          (∀ x, x < dramKey chip at' ∨ dramKey chip at' + 8 ≤ x → t.plainByte deviceEpoch x = s.plainByte deviceEpoch x) ∧
          (∀ x, x / 64 ≠ dramKey chip at' / 64 → t.dram.read x = s.dram.read x))) ∧
      (chip ∉ s.ddb.chips ∨ framesPerChip ≤ wordBits a0 27 4 ∨ Leaf.kind old ≠ 1 ∨ Leaf.disc old = false →
        Gives .conditionalLeaf s (fun t => ringed t 1 ∧ t.dram = s.dram))) ∧
    (s.ringHead = some (4, a0, a1, a2) →
      let lo := if wordBits a1 63 32 = 0 then 0 else a0.toNat
      let hi := if wordBits a1 63 32 = 0 then 2 ^ 64 else a0.toNat + 65536 * wordBits a1 63 32
      (s.nearCovers asid lo hi → Gives .shootDown s (fun t => t = s.dropTlbs asid lo hi)) ∧
      (s.nearCovers asid lo hi = false →
        Gives .shootDown s (fun t => ringed t 0 ∧ ∀ m ∈ s.ddb.chips, ∀ j ∈ (t.chip m).tlb, ¬ (j.asid = asid ∧ j.meets lo hi)))) ∧
    (s.ringHead = some (op.toNat, a0, a1, a2) →
      (op.toNat = 0 ∨ 4 < op.toNat → Gives .unknownHostOp s (fun t => ringed t 0xFF ∧ t.dram = s.dram ∧ t.gangs = s.gangs)) ∧
      (∀ q ∈ [(Instr.preEmpt, 1), (.endField, 2), (.conditionalLeaf, 3), (.shootDown, 4)], op.toNat ≠ q.2 → Gives q.1 s (fun t => t = s)) ∧
      (1 ≤ op.toNat → op.toNat ≤ 4 → Gives .unknownHostOp s (fun t => t = s))) ∧
    (s.ringHead = none → ∀ i ∈ [Instr.preEmpt, .endField, .conditionalLeaf, .shootDown, .unknownHostOp], Gives i s (fun t => t = s)) ∧
    ((∀ m ∈ s.ddb.chips, m < 16 ∧ s.liveEndpoint (8 + m)) →
      Gives (.broadcastWrite (.register .host 0x3000000 w)) s (fun t => (∀ m ∈ s.ddb.chips, (t.chip m).rtroot = (w &&& 0x800000000FFFFFFF#64)) ∧
        t.me = s.me ∧ SameBytes s t)) ∧
    Gives (.broadcastWrite (.memory n data)) s (fun t => t = { s with host := { s.host with mem := s.host.mem.writeBytes n data } }) ∧
    (∀ m, m ∈ s.ddb.chips → (∀ j ∈ s.ddb.chips, m ≤ j) → m < 16 → s.liveEndpoint (8 + m) →
      Gives (.broadcastRead 0x3000000) s (fun t => t = { s with fresh := s.fresh + 1, host := { s.host with readData := (s.chip m).rtroot } })) ∧
    (n % 8 = 0 → Gives (.broadcastRead n) s (fun t => t.host.readData = s.configRead n ∧ t.me = s.me ∧ SameBytes s t)) ∧
    (s.access.find? (fun b => b.n == a.n && b.status == .host) = some a →
      (∀ l big c x, r.granted → atsPermits r a.hostNeed → s.walk a.asid a.va.toNat = .leaf l big c x →
        Gives (.atsCompletion a.n r) s (fun t => ∃ u : State, t = u.serveIncoming ∧
          (∃ j, u.tlbFind (s.home a.va.toNat) a.asid a.va.toNat = some j ∧ j.ats = some r) ∧
          (∀ b ∈ u.access, b.n = a.n → a.kind ≠ .operation ∧ b.status = .issued))) ∧
      (r.granted = false ∨ atsPermits r a.hostNeed = false → Gives (.atsCompletion a.n r) s (fun t =>
        (a.group ∈ s.host.pageRequests → t.host.pageRequests = s.host.pageRequests ∧ ∀ b ∈ t.access, b.n = a.n → b.status = .pageRequest) ∧
        (a.group ∉ s.host.pageRequests → s.host.pageRequests.length < 512 → t.host.pageRequests = s.host.pageRequests ++ [a.group] ∧
          ∀ b ∈ t.access, b.n = a.n → b.status = .pageRequest) ∧
        (a.group ∉ s.host.pageRequests → 512 ≤ s.host.pageRequests.length → t.host.pageRequests = s.host.pageRequests ∧ t.access = s.access)))) ∧
    (s.access.find? (fun b => b.n == a.n && b.status == .pageRequest) = some a →
      ∀ q ∈ [(Instr.priResponse a.n true, Status.host), (.priResponse a.n false, .faulted 0x08), (.priTimeout a.n, .faulted 0x08)],
        Gives q.1 s (fun t => ∃ u : State, t = u.serveIncoming ∧ a.group ∉ u.host.pageRequests ∧
          ∀ b ∈ s.access, b.status = .pageRequest → b.group = a.group → { b with status := q.2 } ∈ u.access)) ∧
    (s.nearCovers asid a0.toNat (a0.toNat + 65536 * n) = false →
      Gives (.atsInvalidation asid a0 n) s (fun t => ∀ m ∈ s.ddb.chips, ∀ j ∈ (t.chip m).tlb, ¬ (j.asid = asid ∧ j.meets a0.toNat (a0.toNat + 65536 * n)))) ∧
    (s.nearCovers asid a0.toNat (a0.toNat + 65536 * n) →
      Gives (.atsInvalidation asid a0 n) s (fun t => t = s.dropTlbs asid a0.toNat (a0.toNat + 65536 * n))) ∧
    (let b := s.biasEntry k.val
     let range := fun (g : Nat) => inRange g b.va.toNat (b.va.toNat + 65536 * b.pages)
     let flushed := fun (t : State) => ∀ m ∈ s.ddb.chips, ∀ l ∈ (t.chip m).llc, ¬ (l.asid = b.asid ∧ range l.granule)
     (b.busy = false → b.dev → w.getLsbD 63 = false → Gives (.biasFlipToHost k w) s (fun t =>
       t.biasEntry k.val = { b with busy := true, toDev := false, toPages := wordBits w 31 0 } ∧ SameBytes s t)) ∧
     (b.busy = false → b.dev = false → w.getLsbD 63 = false → Gives (.biasFlipToHost k w) s (fun t =>
       t.biasEntry k.val = { b with pages := wordBits w 31 0 } ∧ SameBytes s t)) ∧
     (b.busy = false → w.getLsbD 63 → Gives (.biasFlipToDevice k w) s (fun t =>
       t.biasEntry k.val = { b with busy := true, toDev := true, toPages := wordBits w 31 0 } ∧ SameBytes s t)) ∧
     (b.busy = false → (w.getLsbD 63 → Gives (.biasFlipToHost k w) s (fun t => t = s)) ∧
       (w.getLsbD 63 = false → Gives (.biasFlipToDevice k w) s (fun t => t = s))) ∧
     (b.busy → b.toDev → Gives (.biasFlipToHost k w) s (fun t => t = s)) ∧
     (b.busy → b.toDev = false → Gives (.biasFlipToDevice k w) s (fun t => t = s)) ∧
     (∀ q ∈ [(Instr.biasFlipToHost k w, false), (.biasFlipToDevice k w, true)], b.busy → b.toDev = q.2 →
       Gives q.1 s (fun t => ∃ u : State, t = u.serveIncoming ∧ u.biasEntry k.val = { b with dev := q.2, busy := false, pages := b.toPages } ∧
         (b.dev = false → SameBytes s u) ∧ (b.dev → flushed u)))) ∧
    (wordBits s.host.pwrlim 15 0 < n → Gives (.powerThrottle n) s (fun t => t.host.steps = s.host.steps + 1 ∧ t.host.raised = s.host.raised ++ [4])) ∧
    (n ≤ wordBits s.host.pwrlim 15 0 → Gives (.powerThrottle n) s (fun t => t = s)) ∧
    Gives .thermalTrip s (fun t => t.host.steps = s.host.steps + 1 ∧ t.host.raised = s.host.raised ∧ t.me = s.me)

/-- R263, R264, R487–R491, R535: the interposer's pairs and the power gating of banks and ways. A transmitter sends its classes in order, of the flits
that may go, management flits at least once in 64. Flits are delivered in sequence order, one with a bad CRC is tried again, and 16 failures in a row on one
colour lose it, on a relay that of the leg; one lost colour leaves the other; on a change of path the pair stops until every flit on the old one is
acknowledged; what is gated or waking comes back through a clear.
Where the spec leaves it open, this is the model's reading: log entries 64, 70 and 93. -/
def Obligations.InterposerEvents : Prop :=
  ∀ (s : State) (i j : Nat) (x : FlitTry) (col ok : Bool) (fs : List TxFlit) (f : TxFlit) (w : Word64) (c : CoreId) (u : Buf) (bank chip way : Nat),
    let p := s.pair i j
    let q : Pair := { p with tx := p.tx.offer fs }
    let v := s.setPair i j q
    let k := s.core c
    let m := s.chip chip
    let via := prrVia p.prr
    let known := ∀ y ∈ p.unacked, y.1 ≠ x.seq
    let sends := fun (turn : Prop) (more : State → Prop) => x.seq = p.sent → known → p.stopped = false → v.usable i j x → turn →
      q.tx.next q.mayGo = some f → x.seq = p.expected → p.early = [] → Gives (.interposerFlit i j x true fs) s (fun t =>
        (t.pair i j).sent = p.sent + 1 ∧ (t.pair i j).expected = p.expected + 1 ∧ (t.pair i j).delivered = p.delivered ++ [f.body] ∧
        (t.pair i j).tx.waiting = q.tx.waiting.erase f ∧ (∀ y ∈ (t.pair i j).unacked, y.1 ≠ x.seq) ∧ t.me = s.me ∧ more t)
    (∀ (x : Transmitter) (may : TxFlit → Bool), (x.next may = none ↔ ∀ g ∈ x.waiting, may g = false) ∧ ∀ g, x.next may = some g → g ∈ x.waiting ∧ may g ∧
      (63 ≤ x.since → (∃ h ∈ x.waiting, h.cls = .management ∧ may h) → g.cls = .management) ∧
      (x.since < 63 ∨ (∀ h ∈ x.waiting, h.cls = .management → may h = false) → ∀ h ∈ x.waiting, may h → flitCode g.cls ≤ flitCode h.cls)) ∧
    (pairExists i j →
      (s.usable i j x = false → Gives (.interposerFlit i j x ok fs) s (fun t => t = v)) ∧
      (x.seq ≠ p.sent → known → Gives (.interposerFlit i j x ok fs) s (fun t => t = v)) ∧
      (p.stopped → x.seq = p.sent → known → Gives (.interposerFlit i j x ok fs) s (fun t => t = v)) ∧
      sends (prrMode p.prr ≠ 3 ∧ v.legTurn i j false) (fun _ => True) ∧
      sends (prrMode p.prr = 3 ∧ via ≠ i ∧ via ≠ j ∧ v.legTurn i via true ∧ v.legTurn via j true) (fun t =>
        (t.pair i via).relayed ∧ (t.pair via j).relayed) ∧
      (x.seq ≠ p.sent → p.unacked.find? (fun y => y.1 == x.seq) = some (x.seq, f) → s.usable i j x →
        (x.seq = p.expected → p.early = [] → Gives (.interposerFlit i j x true fs) s (fun t =>
          (t.pair i j).expected = x.seq + 1 ∧ (t.pair i j).delivered = p.delivered ++ [f.body] ∧ (t.pair i j).early = [] ∧ t.me = s.me)) ∧
        (x.seq ≠ p.expected → (∀ y ∈ p.early, y.1 ≠ p.expected) → Gives (.interposerFlit i j x true fs) s (fun t =>
          (t.pair i j).expected = p.expected ∧ (t.pair i j).delivered = p.delivered ∧ (x.seq, f.body) ∈ (t.pair i j).early)) ∧
        (let leg : Bool := p.onRelay && x.onSecond
         let colour := if leg then x.second else x.colour
         let n := match p.tries.find? (fun e => e.1 == x.seq && (e.2.1, e.2.2.1) == (leg, colour)) with | some e => e.2.2.2 | none => 0
         let carrier : Nat × Nat := if p.onRelay then (if leg then (via, j) else (i, via)) else (i, j)
         (n < 15 → Gives (.interposerFlit i j x false fs) s (fun t => (x.seq, leg, colour, n + 1) ∈ (t.pair i j).tries ∧ (t.pair i j).prr = p.prr ∧
           (t.pair i j).delivered = p.delivered ∧ (t.pair i j).unacked = p.unacked)) ∧
         (15 ≤ n → Gives (.interposerFlit i j x false fs) s (fun t => (t.pair carrier.1 carrier.2).prr.getLsbD (if colour then 31 else 30) ∧
           (t.pair i j).delivered = p.delivered ∧ (t.pair i j).unacked = p.unacked)))) ∧
      (prrMode p.prr = 0 → Gives (.colourLost i j col) s (fun t => prrMode (t.pair i j).prr = (if col then 1 else 2) ∧
        (t.pair i j).prr.getLsbD (if col then 31 else 30))) ∧
      ((s.liveEndpoint i = false ∨ (prrMode w = 3 ∧ s.relayOk i j w = false)) → Gives (.prrWrite i j w) s (fun t => t = s)) ∧
      (s.liveEndpoint i → (prrMode w = 3 → s.relayOk i j w) → Gives (.prrWrite i j w) s (fun t => prrMode (t.pair i j).prr = prrMode w ∧ t.me = s.me ∧
        (t.pair i j).unacked = p.unacked ∧ (∀ b, b = 30 ∨ b = 31 → (t.pair i j).prr.getLsbD b = w.getLsbD b) ∧
        prrVia (t.pair i j).prr = (if prrVia w < 30 then prrVia w else via) ∧
        (p.settled → (t.pair i j).stopped = false) ∧
        (p.settled = false → p.cutOff = false → p.stopped = false → ((t.pair i j).stopped ↔ ¬ (prrMode p.prr = 3 ↔ prrMode w = 3))))) ∧
      (p.stopped → (p.settled ∨ p.cutOff) → Gives (.pairModeChange i j (prrMode p.prr == 3)) s (fun t =>
        t.pair i j = { p with stopped := false } ∧ t.me = s.me)) ∧
      (p.settled = false → p.cutOff = false → Gives (.pairModeChange i j col) s (fun t => t = s))) ∧
    (s.bankIsFree c u bank → (u, bank) ∉ k.gated → (u, bank) ∉ k.waking →
      Gives (.localBankGate c u bank) s (fun t => t.core c = { k with gated := (u, bank) :: k.gated } ∧ SameBytes s t)) ∧
    ((u, bank) ∈ k.gated → Gives (.localBankEnable c u bank) s (fun t => (u, bank) ∉ (t.core c).gated ∧ (u, bank) ∈ (t.core c).waking ∧ SameBytes s t)) ∧
    Gives (.localBankWake c u bank) s (fun t => (u, bank) ∉ (t.core c).waking ∧ (t.core c).gated = k.gated ∧ SameBytes s t) ∧
    (way < 16 → chip ∈ s.ddb.chips → way ∉ m.gatedWays → way ∉ m.wakingWays → Gives (.llcWayGate chip way) s (fun t =>
      way ∈ (t.chip chip).gatedWays ∧ ∀ l ∈ (t.chip chip).llc, l.way ≠ way)) ∧
    (way ∈ m.gatedWays → Gives (.llcWayEnable chip way) s (fun t => way ∉ (t.chip chip).gatedWays ∧ way ∈ (t.chip chip).wakingWays ∧ SameBytes s t)) ∧
    Gives (.llcWayCleared chip way) s (fun t => way ∉ (t.chip chip).wakingWays ∧ SameBytes s t)

/-- R509–R527, R535, R536: the ports of the fabric. A flit that reaches a port intact and in order is taken and acknowledged; for a missing one the
transmitter is asked once; what is not acknowledged is sent again. A request waits to be performed, a reply completes its access or faults it.
Widths, lane and laser states change as their registers and hardware say; the Lamplighter is reset when nobody kicks it. Where the spec leaves it
open, this is the model's reading: log entries 14, 67, 69, 73 and 98; the parameters of the CRC-64 are log entry 98, the model's choice. -/
def Obligations.FabricEvents : Prop :=
  ∀ (s : State) (p : PortId) (h : FlitHead) (o b n : Nat) (op : FabricOp) (data : List Byte) (up : BitVec 16) (w : Word64) (lane : Fin 32) (l16 : Fin 16)
    (link : FabricLink) (wc : BitVec 2) (mask : Word32) (kind : Byte) (lock : BitVec 2) (d : Fin 4) (a : Access),
    let q := s.port p
    let live := s.liveEndpoint (24 + p.die.val)
    let comes := fun (kind : Nat) => live ∧ q.takes p h ∧ q.corrects p h ∧ flitIntact h kind
    let src := h.src.toNat
    let exp := q.expected src
    let inOrder := fun (kind : Nat) => comes kind ∧ h.seq.toNat = exp % 65536
    let took := fun (t : State) => (t.port p).expected src = (exp + 1) % 65536
    let ack := linkFlit src (.ack h.seq.toNat)
    let again := fun (t : State) (q : FabricPort) => (q.up p = false → t.port p = q.resent) ∧
      (q.up p → q.markers = [] → (q.replay.map (fun e => e.1)).Nodup → q.tx.waiting = [] → (t.port p).replay = q.replay ∧ (t.port p).tx.waiting = [] ∧
        (t.port p).line = q.line ++ q.replay.map (fun e => ⟨e.1, q.cur, q.inUse, e.2.1⟩))
    let runs := s.lampPort p
    let las := fun (t : State) (i : Nat) => ((t.port p).lane i).las
    (∀ f ∈ [(Instr.requestFlit p h o b op, 1), (.replyFlit p h n none data, 2), (.managementFlit p h (some link), 5)],
      (live = false ∨ q.takes p h = false → Gives f.1 s (fun t => t = s)) ∧
      (inOrder f.2 → s.forMe p h = false → Gives f.1 s (fun t => took t ∧ t.access = s.access ∧ t.host = s.host ∧ t.me = s.me ∧ SameBytes s t)) ∧
      (live → q.takes p h → (q.corrects p h = false ∨ flitIntact h f.2 = false) → (src, exp) ∉ q.asked → Gives f.1 s (fun t =>
        (t.port p).asked = (src, exp) :: q.asked ∧ (t.port p).expected src = exp ∧ t.access = s.access ∧ t.host = s.host ∧ SameBytes s t)) ∧
      (comes f.2 → (h.seq.toNat + 1) % 65536 = exp % 65536 → Gives f.1 s (fun t =>
        (t.port p).expected src = exp ∧ t.access = s.access ∧ t.host = s.host ∧ SameBytes s t))) ∧
    (inOrder 1 → s.forMe p h →
      let u := (s.receiveFlit p h 1).1
      let z : State := { u with host := { u.host with incoming := s.host.incoming ++ [⟨p, src, h.seq.toNat, o, b, op⟩] } }
      u.me = s.me ∧ u.rest = s.rest ∧ u.access = s.access ∧ u.dram = s.dram ∧ u.host = s.host ∧
      (q.up p → q.tx.waiting = [] → (u.port p).line = q.line ++ [⟨0, q.cur, q.inUse, ack⟩]) ∧
      (q.up p = false → (u.port p).tx.waiting = q.tx.waiting ++ [ack]) ∧
      Gives (.requestFlit p h o b op) s (fun t => t = z.serveIncoming) ∧
      (∀ v g, s.host.incoming = [] → s.ddb.devValid → z.exported o (fabricNeed op) b (fabricUpdate b op) = (v, some g) →
        Gives (.requestFlit p h o b op) s (fun t => t.dram = v.dram ∧ t.me = s.me ∧ t.rest = s.rest ∧ t.host.incoming = []))) ∧
    (inOrder 2 → s.forMe p h → s.atPeer n = some a →
      (a.kind = .load → Pol.acquire a.pol = false →
        Gives (.replyFlit p h n none data) s (fun t => took t ∧ (∀ x ∈ t.access, x.n = n → x.status = .done (BitVec.ofNat 64 (ofLe data))) ∧ t.me = s.me)) ∧
      (a.kind = .store → 1 < a.cmp.toNat →
        Gives (.replyFlit p h n none data) s (fun t => took t ∧ { a with cmp := a.cmp - 1 } ∈ t.access ∧ t.me = s.me)) ∧
      (∀ e, Gives (.replyFlit p h n (some e) data) s (fun t => (∀ x ∈ t.access, x.n = n → x.status = .faulted 0x08) ∧
        t.host.peererr = BitVec.ofNat 64 (2 ^ 63 + e.val * 2 ^ 56 + peerDevice a.va * 2 ^ 32 + peerOffset a.va % 2 ^ 32)))) ∧
    (s.atPeer n = some a → Gives (.peerTimeout n) s (fun t => (∀ x ∈ t.access, x.n = n → x.status = .faulted 0x08) ∧
      t.host.peererr = BitVec.ofNat 64 (2 ^ 63 + 2 ^ 56 + peerDevice a.va * 2 ^ 32 + peerOffset a.va % 2 ^ 32))) ∧
    (s.atPeer n = none → Gives (.peerTimeout n) s (fun t => t = s)) ∧
    (comes 3 →
      (q.tx.waiting = [] → Gives (.ackFlit p h up) s (fun t => t.port p = q.acked src up.toNat ∧ t.me = s.me)) ∧
      (∀ f, q.replay = [(up.toNat, f, [src])] → q.markers = [] → q.tx.waiting = [] →
        Gives (.ackFlit p h up) s (fun t => t.port p = { q with replay := [] } ∧ t.me = s.me)) ∧
      Gives (.replayRequest p h up) s (fun t => again t q ∧ t.me = s.me)) ∧
    (inOrder 5 → s.forMe p h → Gives (.managementFlit p h (some link)) s (fun t => took t ∧ t.me = s.me ∧ t.access = s.access ∧
      (t.port p).partners = Table.put q.partners (if isOptical p then h.star.val else 0) link)) ∧
    Gives (.idleFlit p) s (fun t => t = s) ∧
    (5 < kind.toNat → live → q.down = false → q.training = false → Gives (.unknownKindFlit p kind) s (fun t => t.port p = { q with dropped := q.dropped + 1 })) ∧
    (isOptical p = false → live → q.down = false → Gives (.copperRetrain p l16) s (fun t => t.port p = { q with training := true })) ∧
    (q.training →
      Gives (.retrainComplete p true) s (fun t => again t { q with training := false } ∧ (t.port p).training = false) ∧
      Gives (.retrainComplete p false) s (fun t => t.port p = { q with training := false, down := true } ∧ t.host.raised = s.host.raised ++ [3])) ∧
    (runs → q.req = false → w.getLsbD 63 → w.extractLsb' 56 2 ≠ 3 → laneCount (w.setWidth 32) = widthOf (w.extractLsb' 56 2) →
      Gives (.opwidthWrite p w) s (fun t => t.port p = { q with req := true, wc := w.extractLsb' 56 2, mask := w.setWidth 32 })) ∧
    (runs = false ∨ q.req ∨ w.getLsbD 63 = false ∨ w.extractLsb' 56 2 = 3 ∨ laneCount (w.setWidth 32) ≠ widthOf (w.extractLsb' 56 2) →
      Gives (.opwidthWrite p w) s (fun t => t = s)) ∧
    (comes 4 → isOptical p → Gives (.widthMarker p h wc mask) s (fun t => (t.port p).band h.star.val = (wc, mask))) ∧
    (live → q.req → q.replaying = false → q.up p → Gives (.widthChange p) s (fun t => (t.port p).req = false ∧ (t.port p).cur = q.wc ∧
      (t.port p).inUse = q.mask ∧ t.me = s.me ∧ (q.line ++ [⟨0, q.cur, q.inUse, linkFlit 0 (.marker q.wc q.mask)⟩]) <+: (t.port p).line ∧
      (q.tx.waiting = [] → t.port p = q.widen p))) ∧
    (live = false ∨ q.req = false ∨ q.replaying ∨ q.up p = false → Gives (.widthChange p) s (fun t => t = s)) ∧
    (isOptical p → live →
      (q.inUse.getLsbD lane.val → Gives (.erasureSet p lane) s (fun t => t.me = s.me ∧ (t.port p).lane lane.val =
        { (q.lane lane.val).measured (Config.laneReading s.fresh) with
          eras := (q.lane lane.val).eras || (q.lane lane.val).failing q.rxmin (Config.laneReading s.fresh), fell := false })) ∧
      Gives (.receiveLockAcquired p lane lock) s (fun t => ((t.port p).lane lane.val).lock = lock ∧ t.me = s.me) ∧
      (q.inUse.getLsbD lane.val → las s lane.val = 1 → s.flitWaits p → Gives (.laneWake p lane) s (fun t => las t lane.val = 2)) ∧
      (q.clamped = false → s.ddb.ready = false → Gives (.lasclampWrite p w true) s (fun t => (t.port p).lasclamp = w.setWidth 12 ∧ (t.port p).clamped ∧
        ∀ i, ((t.port p).lane i).bias = capped (w.setWidth 12) (q.lane i).bias))) ∧
    (q.clamped ∨ s.ddb.ready → Gives (.lasclampWrite p w true) s (fun t => t = s)) ∧
    Gives (.lasclampWrite p w false) s (fun t => t = s) ∧
    (let sets := fun (i : Nat) => q.inUse.getLsbD i ∧ (laserCode w i = 0 ∨ laserCode w i = 1)
     (runs → (∀ i, i < 32 → ¬ sets i) → Gives (.lasstWrite p w) s (fun t => ∀ i, i < 32 →
       las t i = (if laserCode w i = 3 then las s i else if laserCode w i = 1 ∧ las s i = 0 then 0 else laserCode w i) ∧
       (i ∈ (t.port p).waking ↔ if laserCode w i = 3 then i ∈ q.waking else laserCode w i = 1 ∧ las s i = 0))) ∧
     (runs = false ∨ (∃ i, i < 32 ∧ sets i) → Gives (.lasstWrite p w) s (fun t => t = s))) ∧
    (lane.val ∈ q.waking → Gives (.standbyReached p lane) s (fun t => las t lane.val = 1 ∧ lane.val ∉ (t.port p).waking)) ∧
    ((s.lamp d).running →
      Gives (.llkick d) s (fun t => t.lamp d = { s.lamp d with kicked := true }) ∧
      (s.liveEndpoint (24 + d.val) →
        ((s.lamp d).kicked → Gives (.lamplighterWatchdog d) s (fun t => t.lamp d = { s.lamp d with kicked := false } ∧ t.host.raised = s.host.raised)) ∧
        ((s.lamp d).kicked = false → Gives (.lamplighterWatchdog d) s (fun t => (t.lamp d).running = false ∧ t.host.raised = s.host.raised ++ [3])))) ∧
    ((s.lamp d).running = false → s.liveEndpoint (24 + d.val) → Gives (.lamplighterRestart d) s (fun t => (t.lamp d).running ∧ t.me = s.me))

/-! ## Decoding and the whole machine -/

/-- R33–R35, R81, R106, R112, R416: words that the spec works out decode to the instructions they stand for: `addi s4, s5, -3`,
`ld.d.g s7, [s6], s0`, `dbnz s4` with off16 −3, `lrun` of kfirst 8, two instructions and index 0, `cas.d s4, [s5], s6, s7`, `push 0, s23`,
`vfma.f32.rz v4, v5, v6, v7`, `vred` with scale 2 and policy s5, and the candle-only `nelse`. -/
def Obligations.DecodeWords : Prop :=
  decode [0x0420BFFD] = .ok (.addi 4 5 (-3)) ∧
  decode [0x4038C003] = .ok (.ld 7 6 0 false 0 3) ∧
  decode [0x2A04FFFD] = .ok (.dbnz 4 (-3)) ∧
  decode [0x30404000] = .ok (.lrun 8 1 0) ∧
  decode [0x4620A347] = .ok (.cas 4 5 6 true 7) ∧
  decode [0x5602E020] = .ok (.push 23 0 true 0) ∧
  decode [0x04110001, 0x00180A04, 0x00000007] =
    .ok (.vfma ⟨.f32, 0, 0, 0, false, false, false, false, 1, .v 4, .v 5, .v 6, 0, 7⟩) ∧
  decode [0x55114000, 0x08294800, 0x00000A0C] =
    .ok (.vred ⟨.f32, 4, 0, 0, false, false, false, false, 0, .v 0, .k 0, .v 10, 1, 0xA0C⟩) ∧
  decodeTableWord 96 0x61000000 = some .nelse

/-- Encoding and decoding agree: a well-formed instruction that has words decodes from them, with every operand; and no bit of a word that
decodes is dropped, since the instruction's words are that word again. -/
def Obligations.EncodeDecode : Prop :=
  (∀ i, i.wellFormed → encodeScalar i ≠ none ∨ laneParts i ≠ none → decode (encode i) = .ok i) ∧
  (∀ i w, i.wellFormed → encodeCandleOnly i = some w → encode i = laneWords w ∧ decodeCandleOnly w = .ok i) ∧
  (∀ ws i, decode ws = .ok i → encode i = ws) ∧
  (∀ w i, decodeCandleOnly w = .ok i → encode i = laneWords w)

/-- One step runs the instruction that was decoded: the event that the agenda names; the scalar instruction at the pc of the slotted strand whose
turn it is, with nothing due at its boundary; the next lane instruction of its run, outside hazards, with the generators of its head where it
executes again (R67), the head of a chain with its latches lost (R31), a further member, or the Illegal Chain trap. The turn of a strand without a
slot issues nothing, but for the members of a chain in execution. With an empty agenda a round begins. Where the spec leaves it open, this is the
model's reading: log entries 1, 23, 24, 54, 71, 74 and 100. -/
def Obligations.StepRunsDecoded : Prop :=
  ∀ (s u : State) (i : Instr) (rest : List Action) (bs : List Byte) (w : BitVec 96),
    let v : State := { s with agenda := rest }
    let x := s.me
    let begins := x.mayIssueNow ∧ x.laneHeld = false ∧ x.chainOpen = false ∧ x.nextDone w = false ∧ x.hazards x.nextChain = [] ∧
      v.laneFaultHeld x.nextChain = false
    (s.agenda = .event i :: rest → step s = exec i v) ∧
    (s.agenda = .scalar x.who.id :: rest → x.live → x.mayIssueNow = false → step s = .next v) ∧
    (s.agenda = .lane x.who.id :: rest → x.live → (x.mayIssueNow = false ∧ x.chainOpen = false) ∨ v.portBusy x.who.id → step s = .next v) ∧
    (s.agenda = .scalar x.who.id :: rest → x.live → x.mayIssueNow → x.sch.retired = false → x.sch.hold = false → x.sch.halted = false → x.lq.draining = false →
      x.redo = [] → x.sch.deadlock = none → x.sch.atQueue = false → v.dueFirst = none → v.dueLast = none → v.fetch x.pc 4 = (u, .bytes bs) →
      decodeScalar (BitVec.ofNat 32 (ofLe bs)) = .ok i → step s = exec i u) ∧
    (s.agenda = .lane x.who.id :: rest → x.live → x.nextWord = some w → v.portBusy x.who.id = false → decodeLane w = .ok i →
      (begins → illegalChain x.nextChain = false → x.nextChain.length ≤ 1 → step s = exec i { v with me := x.headState }) ∧
      (begins → illegalChain x.nextChain = false → 2 ≤ x.nextChain.length →
        step s = exec i { v with me := x.headState.openChain x.nextChain.length s.fresh, fresh := s.fresh + 1 }) ∧
      (begins → illegalChain x.nextChain → step s = .next (({ v with me := x.headState } : State).laneTrap 0x02 0 (x.active (wordSel w)))) ∧
      (x.chainOpen → step s = exec i v)) ∧
    (s.agenda = [] → step s = .next { s.roundStart with agenda := s.roundStart.candidates.map .event })

/-- No instruction and no event ends the machine: each answers a next state in every state, with a trap, a wait or its effect in it. -/
def Obligations.EveryInstructionGoesOn : Prop := ∀ (i : Instr) (s : State), Gives i s (fun _ => True)

/-- R176, R451, R453, R465, R474: instructions with a word keep the strand's privileged registers in user mode; they enter supervisor mode only
at the handler, and no instruction but `sret` leaves it. -/
def Obligations.PrivilegeKept : Prop :=
  ∀ (i : Instr) (s t : State), encode i ≠ [] → exec i s = .next t →
    t.me.who = s.me.who ∧
    (s.me.tr.sup = false →
      t.me.tr.tvec = s.me.tr.tvec ∧ t.me.tr.scratch = s.me.tr.scratch ∧ t.me.sy.asid = s.me.sy.asid ∧ t.me.sy.prio = s.me.sy.prio ∧
      t.me.sy.hien = s.me.sy.hien ∧ t.me.sy.hi = s.me.sy.hi ∧ t.me.sy.lo = s.me.sy.lo ∧ t.me.sy.blkt = s.me.sy.blkt ∧
      (t.me.tr.sup → t.me.pc = s.me.tr.tvec + 0x40)) ∧
    (s.me.tr.sup → t.me.tr.sup = false → i = .sret)

/-- The invariant of the model's memory and numbering, kept by every step from every state that has it: byte memories stay in canonical form, and
access numbers stay below the next one.
Where the spec leaves it open, this is the model's reading: log entry 7. -/
def Obligations.InvariantKept : Prop :=
  ∀ s t : State, memoryWf s → Numbered s → step s = .next t → memoryWf t ∧ Numbered t

/-- R17, R147, R492, R498: the reset state has the invariant; no die but the Sconce has left reset, nothing is described, no strand is resident,
no field is known, and memory lists nothing. A strand enters with its pc, LCB, argument block and launch mask, every other register zero.
Where the spec leaves it open, this is the model's reading: log entries 4, 5 and 6. -/
def Obligations.ResetState : Prop :=
  (memoryWf State.reset ∧ Numbered State.reset ∧ State.reset.strands = [] ∧ State.reset.fields = [] ∧ State.reset.access = [] ∧
    State.reset.dram = [] ∧ State.reset.host.mem = [] ∧ State.reset.sconce.stage = 0 ∧ State.reset.sconce.released = [] ∧
    State.reset.ddb.ready = false ∧ State.reset.host.hcrHead = 0 ∧ State.reset.host.hcrTail = 0) ∧
  (∀ (who : Ident) (pc lcb args tvec : Word64) (asid : BitVec 16) (prio : BitVec 2) (lane0 : Bool),
    let x := Strand.entry who pc lcb args tvec asid prio lane0
    x.pc = pc ∧ x.sy.lcb = lcb &&& ~~~0x3F#64 ∧ x.s[1] = args ∧
    (∀ n : Fin 96, x.em.getLsbD n.val = (!lane0 || n.val == 0)) ∧
    (∀ r : Reg, r ≠ 1 → r ≠ 56 → r ≠ 57 → r ≠ 58 → x.s[r] = 0) ∧ x.pend = [] ∧ x.lq.runs = [] ∧ x.lq.ops = [] ∧ x.sy.flags = 0 ∧ x.tr.sup = false ∧
    x.lf.tag = 0 ∧ (∀ (n : Fin 128) (l : Lane), x.lf.v[n][l] = 0) ∧ (∀ (n : Fin 32) (l : Lane), x.lf.a[n][l] = 0) ∧ (∀ k : Fin 8, x.lf.m[k] = 0))
end

