-- ==== Sys2Proof/Laws/Memory.lean ====
section
/-! SUPPORT. Laws of the byte memories and tables: the canonical form is kept, a read after a write, a write leaves the rest alone; equal
bytes are equal memories. -/

namespace Sys2Proof.Laws.Memory

open Sys2Proof.Machine Sys2Proof.Safety

/-! ## The canonical form -/

theorem wfFrom_mono {m : Mem} {lo lo' : Nat} (h : m.wfFrom lo = true) (hl : lo' ≤ lo) : m.wfFrom lo' = true := by
  cases m with
  | nil => rfl
  | cons c m =>
    simp only [Mem.wfFrom, Bool.and_eq_true, decide_eq_true_eq] at *
    exact ⟨⟨by omega, h.1.2⟩, h.2⟩

theorem read_below {m : Mem} {lo a : Nat} (h : m.wfFrom lo = true) (ha : a < lo) : m.read a = 0 := by
  induction m generalizing lo with
  | nil => rfl
  | cons c m ih =>
    simp only [Mem.wfFrom, Bool.and_eq_true, decide_eq_true_eq] at h
    have hne : c.1 ≠ a := by omega
    simp only [Mem.read, hne, if_false]
    exact ih h.2 (by omega)

theorem wfFrom_cons {lo x : Nat} {y : Byte} {m : Mem} : Mem.wfFrom lo ((x, y) :: m) = true ↔ lo ≤ x ∧ y ≠ 0 ∧ m.wfFrom (x + 1) = true := by
  simp only [Mem.wfFrom, Bool.and_eq_true, decide_eq_true_eq, bne_iff_ne, and_assoc]

theorem wfFrom_filter {m : Mem} (p : Host.Cell → Bool) {lo : Nat} (h : m.wfFrom lo = true) : Mem.wfFrom lo (m.filter p) = true := by
  induction m generalizing lo with
  | nil => rfl
  | cons c m ih =>
    obtain ⟨x, y⟩ := c
    simp only [Mem.wfFrom, Bool.and_eq_true, decide_eq_true_eq, bne_iff_ne, ne_eq] at h
    by_cases hp : p (x, y) = true
    · simp only [List.filter_cons, hp, if_true, Mem.wfFrom, Bool.and_eq_true, decide_eq_true_eq, bne_iff_ne, ne_eq]
      exact ⟨h.1, ih h.2⟩
    · simp only [List.filter_cons, hp]
      exact wfFrom_mono (ih h.2) (by omega)

theorem wfFrom_place {m : Mem} {lo a : Nat} {b : Byte} (hb : b ≠ 0) (h : m.wfFrom lo = true) (ha : lo ≤ a) (hn : ∀ c ∈ m, c.1 ≠ a) :
    (m.place a b).wfFrom lo = true := by
  induction m generalizing lo with
  | nil => rw [Mem.place, wfFrom_cons]; exact ⟨ha, hb, rfl⟩
  | cons c m ih =>
    obtain ⟨x, y⟩ := c
    obtain ⟨hx, hy, hm⟩ := wfFrom_cons.mp h
    have hxa : x ≠ a := hn (x, y) (List.mem_cons_self ..)
    simp only [Mem.place]
    by_cases h1 : a < x
    · rw [if_pos h1, wfFrom_cons, wfFrom_cons]; exact ⟨ha, hb, by omega, hy, hm⟩
    · rw [if_neg h1, wfFrom_cons]
      exact ⟨hx, hy, ih hm (by omega) (fun c hc => hn c (List.mem_cons_of_mem _ hc))⟩

/-- A write keeps the canonical form. -/
theorem wf_write {m : Mem} (a : Nat) (b : Byte) (h : m.wf = true) : (m.write a b).wf = true := by
  have hf : Mem.wfFrom 0 (m.filter (fun c => c.1 != a)) = true := wfFrom_filter _ h
  unfold Mem.write Mem.wf
  by_cases hb : b = 0
  · simpa [hb] using hf
  · simp only [hb, if_false]
    exact wfFrom_place hb hf (Nat.zero_le a) (fun c hc => by simpa using (List.mem_filter.mp hc).2)

/-- Stores of many bytes keep the canonical form. -/
theorem wf_writeBytes {m : Mem} (a : Nat) (bs : List Byte) (h : m.wf = true) : (m.writeBytes a bs).wf = true := by
  induction bs generalizing m a with
  | nil => exact h
  | cons b bs ih => exact ih (a + 1) (wf_write a b h)

/-- Zeroing a range keeps the canonical form. -/
theorem wf_clear {m : Mem} (lo hi : Nat) (h : m.wf = true) : (m.clear lo hi).wf = true := wfFrom_filter _ h

/-! ## Reads after writes -/

theorem read_cons (x : Nat) (y : Byte) (m : Mem) (b : Nat) : Mem.read ((x, y) :: m) b = if x = b then y else m.read b := rfl

theorem read_erase (m : Mem) (a b : Nat) : Mem.read (m.filter (fun c => c.1 != a)) b = if b = a then 0 else m.read b := by
  induction m with
  | nil => simp [Mem.read]
  | cons c m ih =>
    obtain ⟨x, y⟩ := c
    rw [List.filter_cons, read_cons]
    by_cases hx : x = a
    · have : ((x != a) = true) = False := by simp [hx]
      rw [if_neg (by simp [hx]), ih]
      by_cases hb : b = a
      · rw [if_pos hb, if_pos hb]
      · rw [if_neg hb, if_neg hb, if_neg (by omega)]
    · rw [if_pos (by simp [hx]), read_cons, ih]
      by_cases hxb : x = b
      · rw [if_pos hxb, if_pos hxb, if_neg (by omega)]
      · rw [if_neg hxb, if_neg hxb]

theorem read_place {m : Mem} {a : Nat} (b : Nat) (v : Byte) (hn : ∀ c ∈ m, c.1 ≠ a) : (m.place a v).read b = if b = a then v else m.read b := by
  induction m with
  | nil =>
    rw [Mem.place, read_cons]
    by_cases hb : b = a
    · rw [if_pos hb.symm, if_pos hb]
    · rw [if_neg (fun e => hb e.symm), if_neg hb]
  | cons c m ih =>
    obtain ⟨x, y⟩ := c
    have hxa : x ≠ a := hn (x, y) (List.mem_cons_self ..)
    simp only [Mem.place]
    by_cases h1 : a < x
    · rw [if_pos h1, read_cons]
      by_cases hb : b = a
      · rw [if_pos hb.symm, if_pos hb]
      · rw [if_neg (fun e => hb e.symm), if_neg hb]
    · rw [if_neg h1, read_cons, read_cons, ih (fun c hc => hn c (List.mem_cons_of_mem _ hc))]
      by_cases hx : x = b
      · rw [if_pos hx, if_pos hx, if_neg (by omega)]
      · rw [if_neg hx, if_neg hx]

/-- A read after a write gives the byte written, and every other byte as before. -/
theorem read_write (m : Mem) (a b : Nat) (v : Byte) : (m.write a v).read b = if b = a then v else m.read b := by
  unfold Mem.write
  by_cases hv : v = 0
  · simp only [hv, if_true]; exact read_erase m a b
  · simp only [hv, if_false]
    rw [read_place b v (fun c hc => by simpa using (List.mem_filter.mp hc).2), read_erase]
    by_cases hb : b = a
    · rw [if_pos hb, if_pos hb]
    · rw [if_neg hb, if_neg hb, if_neg hb]

/-- A read after a store of many bytes. -/
theorem read_writeBytes (m : Mem) (a b : Nat) (bs : List Byte) :
    (m.writeBytes a bs).read b = if a ≤ b ∧ b < a + bs.length then bs.getD (b - a) 0 else m.read b := by
  induction bs generalizing m a with
  | nil =>
    have : ¬ (a ≤ b ∧ b < a + ([] : List Byte).length) := by simp
    simp only [this, if_false, Mem.writeBytes]
  | cons v bs ih =>
    simp only [Mem.writeBytes, List.length_cons]
    rw [ih, read_write]
    by_cases h1 : b = a
    · subst h1
      have : ¬ (b + 1 ≤ b ∧ b < b + 1 + bs.length) := by omega
      simp [this]
    · by_cases h2 : a + 1 ≤ b ∧ b < a + 1 + bs.length
      · have h3 : a ≤ b ∧ b < a + (bs.length + 1) := by omega
        have h4 : b - a = (b - (a + 1)) + 1 := by omega
        simp [h2, h3, h4]
      · have h3 : ¬ (a ≤ b ∧ b < a + (bs.length + 1)) := by omega
        rw [if_neg h2, if_neg h1, if_neg h3]

/-- Bytes outside a store are as before. -/
theorem read_writeBytes_outside (m : Mem) {a b : Nat} {bs : List Byte} (hb : b < a ∨ a + bs.length ≤ b) :
    (m.writeBytes a bs).read b = m.read b := by
  rw [read_writeBytes, if_neg (by omega)]

theorem bytes_get (m : Mem) (a n i : Nat) : (m.bytes a n).getD i 0 = if i < n then m.read (a + i) else 0 := by
  induction n generalizing a i with
  | zero => simp [Mem.bytes]
  | succ n ih =>
    cases i with
    | zero => simp [Mem.bytes]
    | succ i =>
      simp only [Mem.bytes, List.getD_cons_succ, ih]
      have : a + 1 + i = a + (i + 1) := by omega
      by_cases hi : i < n <;> simp [hi, this]

@[simp] theorem bytes_length (m : Mem) (a n : Nat) : (m.bytes a n).length = n := by
  induction n generalizing a with
  | zero => rfl
  | succ n ih => simp [Mem.bytes, ih]

/-- Two memories that agree on a range give the same bytes of it. -/
theorem bytes_congr {m m' : Mem} {a n : Nat} (h : ∀ b, a ≤ b → b < a + n → m.read b = m'.read b) : m.bytes a n = m'.bytes a n := by
  induction n generalizing a with
  | zero => rfl
  | succ n ih =>
    simp only [Mem.bytes]
    rw [h a (by omega) (by omega), ih (fun b h1 h2 => h b (by omega) (by omega))]

/-- The bytes stored are read back. -/
theorem bytes_writeBytes (m : Mem) (a : Nat) (bs : List Byte) : (m.writeBytes a bs).bytes a bs.length = bs := by
  induction bs generalizing m a with
  | nil => rfl
  | cons v bs ih =>
    simp only [List.length_cons, Mem.bytes, Mem.writeBytes]
    rw [ih, read_writeBytes, if_neg (by omega), read_write, if_pos rfl]

/-- Bytes of a range that a store does not meet. -/
theorem bytes_writeBytes_apart (m : Mem) {a b n : Nat} {bs : List Byte} (hab : b + n ≤ a ∨ a + bs.length ≤ b) :
    (m.writeBytes a bs).bytes b n = m.bytes b n :=
  bytes_congr (fun c _ _ => read_writeBytes_outside m (by omega))

/-- Memories in canonical form that read alike are equal. -/
theorem ext_from {m m' : Mem} {lo : Nat} (h : m.wfFrom lo = true) (h' : m'.wfFrom lo = true) (hr : ∀ a, m.read a = m'.read a) : m = m' := by
  induction m generalizing m' lo with
  | nil =>
    cases m' with
    | nil => rfl
    | cons c m' =>
      simp only [Mem.wfFrom, Bool.and_eq_true, decide_eq_true_eq, bne_iff_ne, ne_eq] at h'
      have := hr c.1
      simp only [Mem.read, if_true] at this
      exact absurd this.symm h'.1.2
  | cons c m ih =>
    have hc := h
    simp only [Mem.wfFrom, Bool.and_eq_true, decide_eq_true_eq, bne_iff_ne, ne_eq] at hc
    cases m' with
    | nil =>
      have := hr c.1
      simp only [Mem.read, if_true] at this
      exact absurd this hc.1.2
    | cons d m' =>
      have hd := h'
      simp only [Mem.wfFrom, Bool.and_eq_true, decide_eq_true_eq, bne_iff_ne, ne_eq] at hd
      have e : c.1 = d.1 := by
        rcases Nat.lt_trichotomy c.1 d.1 with hlt | heq | hgt
        · have := hr c.1
          have hne : ¬ d.1 = c.1 := by omega
          simp only [Mem.read, if_true, hne, if_false] at this
          rw [read_below hd.2 (by omega)] at this
          exact absurd this hc.1.2
        · exact heq
        · have := hr d.1
          have hne : ¬ c.1 = d.1 := by omega
          simp only [Mem.read, if_true, hne, if_false] at this
          rw [read_below hc.2 (by omega)] at this
          exact absurd this.symm hd.1.2
      have e2 : c.2 = d.2 := by
        have := hr c.1
        simpa only [Mem.read, if_true, e] using this
      have e3 : c = d := Prod.ext e e2
      subst e3
      congr 1
      refine ih hc.2 hd.2 (fun a => ?_)
      by_cases ha : c.1 = a
      · subst ha
        rw [read_below hc.2 (by omega), read_below hd.2 (by omega)]
      · have := hr a
        simpa only [Mem.read, ha, if_false] using this

/-- The canonical form is canonical: equal bytes are equal data. -/
theorem mem_ext {m m' : Mem} (h : m.wf = true) (h' : m'.wf = true) (hr : ∀ a, m.read a = m'.read a) : m = m' := ext_from h h' hr

/-- Zeroing reads as zero in the range and as before elsewhere. -/
theorem read_clear {m : Mem} (lo hi a : Nat) (h : m.wf = true) : (m.clear lo hi).read a = if lo ≤ a ∧ a < hi then 0 else m.read a := by
  have key : ∀ (m : Mem) (l : Nat), m.wfFrom l = true → (m.clear lo hi).read a = if lo ≤ a ∧ a < hi then 0 else m.read a := by
    intro m
    induction m with
    | nil => intro l _; simp [Mem.clear, Mem.read]
    | cons c m ih =>
      intro l hl
      simp only [Mem.wfFrom, Bool.and_eq_true, decide_eq_true_eq, bne_iff_ne, ne_eq] at hl
      have ih' := ih _ hl.2
      by_cases hp : (decide (c.1 < lo) || decide (hi ≤ c.1)) = true
      · have : Mem.clear (c :: m) lo hi = c :: Mem.clear m lo hi := by
          simp only [Mem.clear]; rw [List.filter_cons_of_pos (by simpa using hp)]
        rw [this]
        simp only [Mem.read]
        simp only [Bool.or_eq_true, decide_eq_true_eq] at hp
        by_cases ha : c.1 = a
        · subst ha
          rw [if_pos rfl, if_pos rfl, if_neg (by omega)]
        · rw [if_neg ha, if_neg ha]; exact ih'
      · have : Mem.clear (c :: m) lo hi = Mem.clear m lo hi := by
          simp only [Mem.clear]; rw [List.filter_cons_of_neg (by simpa using hp)]
        rw [this]
        simp only [Bool.or_eq_true, decide_eq_true_eq] at hp
        rw [ih']
        by_cases ha : c.1 = a
        · subst ha
          rw [if_pos (by omega), if_pos (by omega)]
        · simp only [Mem.read, ha, if_false]
  exact key m 0 h

/-! ## Bytes of numbers -/

@[simp] theorem leBytes_length (n v : Nat) : (leBytes n v).length = n := by
  induction n generalizing v with
  | zero => rfl
  | succ n ih => simp [leBytes, ih]

/-- The number that the low bytes of a number stand for. -/
theorem ofLe_leBytes (n v : Nat) : ofLe (leBytes n v) = v % 256 ^ n := by
  induction n generalizing v with
  | zero => simp [leBytes, ofLe, Nat.mod_one]
  | succ n ih =>
    have e : (256 : Nat) ^ (n + 1) = 256 * 256 ^ n := by rw [Nat.pow_succ, Nat.mul_comm]
    rw [e, Nat.mod_mul]
    simp only [leBytes, ofLe, ih, BitVec.toNat_ofNat]

theorem ofLe_lt (bs : List Byte) : ofLe bs < 256 ^ bs.length := by
  induction bs with
  | nil => simp [ofLe]
  | cons b bs ih =>
    simp only [ofLe, List.length_cons, Nat.pow_succ]
    have := b.isLt
    omega

/-! ## Tables -/

@[simp] theorem get_put_same {κ α : Type} [DecidableEq κ] (t : Table κ α) (k : κ) (v d : α) : Table.get (Table.put t k v) k d = v := by
  induction t with
  | nil => simp [Table.put, Table.get]
  | cons e t ih =>
    simp only [Table.put]
    by_cases h : e.1 = k <;> simp [h, Table.get, ih]

theorem get_put {κ α : Type} [DecidableEq κ] (t : Table κ α) (k j : κ) (v d : α) :
    Table.get (Table.put t k v) j d = if j = k then v else Table.get t j d := by
  induction t with
  | nil =>
    by_cases h : j = k
    · simp [Table.put, Table.get, h]
    · have : ¬ k = j := fun e => h e.symm
      simp [Table.put, Table.get, h, this]
  | cons e t ih =>
    simp only [Table.put]
    by_cases h : e.1 = k
    · subst h
      by_cases hj : j = e.1
      · simp [Table.get, hj]
      · have : ¬ e.1 = j := fun e => hj e.symm
        simp [Table.get, hj, this]
    · simp only [h, if_false, Table.get]
      by_cases h2 : e.1 = j
      · subst h2; simp [h]
      · simp only [h2, if_false, ih]

end Sys2Proof.Laws.Memory
end

