-- ==== Sys2Proof/Laws/State.lean ====
section
/-! SUPPORT. The small lemmas of the state's updates: for each update and each field, what the field is after it. -/

namespace Sys2Proof.Laws.State

open Sys2Proof.Machine

/-! `setReg` -/

@[simp] theorem setReg_me (s : State) (r : Reg) (v : Word64) : (s.setReg r v).me = s.me.setReg s.nextId r v := rfl
@[simp] theorem setReg_rest (s : State) (r : Reg) (v : Word64) : (s.setReg r v).rest = s.rest := rfl
@[simp] theorem setReg_crews (s : State) (r : Reg) (v : Word64) : (s.setReg r v).crews = s.crews := rfl
@[simp] theorem setReg_gangs (s : State) (r : Reg) (v : Word64) : (s.setReg r v).gangs = s.gangs := rfl
@[simp] theorem setReg_fields (s : State) (r : Reg) (v : Word64) : (s.setReg r v).fields = s.fields := rfl
@[simp] theorem setReg_cores (s : State) (r : Reg) (v : Word64) : (s.setReg r v).cores = s.cores := rfl
@[simp] theorem setReg_gau (s : State) (r : Reg) (v : Word64) : (s.setReg r v).gau = s.gau := rfl
@[simp] theorem setReg_chips (s : State) (r : Reg) (v : Word64) : (s.setReg r v).chips = s.chips := rfl
@[simp] theorem setReg_dram (s : State) (r : Reg) (v : Word64) : (s.setReg r v).dram = s.dram := rfl
@[simp] theorem setReg_epochs (s : State) (r : Reg) (v : Word64) : (s.setReg r v).epochs = s.epochs := rfl
@[simp] theorem setReg_access (s : State) (r : Reg) (v : Word64) : (s.setReg r v).access = s.access := rfl
@[simp] theorem setReg_wave (s : State) (r : Reg) (v : Word64) : (s.setReg r v).wave = s.wave := rfl
@[simp] theorem setReg_evsel (s : State) (r : Reg) (v : Word64) : (s.setReg r v).evsel = s.evsel := rfl
@[simp] theorem setReg_evcnt (s : State) (r : Reg) (v : Word64) : (s.setReg r v).evcnt = s.evcnt := rfl
@[simp] theorem setReg_pairs (s : State) (r : Reg) (v : Word64) : (s.setReg r v).pairs = s.pairs := rfl
@[simp] theorem setReg_ports (s : State) (r : Reg) (v : Word64) : (s.setReg r v).ports = s.ports := rfl
@[simp] theorem setReg_lamps (s : State) (r : Reg) (v : Word64) : (s.setReg r v).lamps = s.lamps := rfl
@[simp] theorem setReg_host (s : State) (r : Reg) (v : Word64) : (s.setReg r v).host = s.host := rfl
@[simp] theorem setReg_sconce (s : State) (r : Reg) (v : Word64) : (s.setReg r v).sconce = s.sconce := rfl
@[simp] theorem setReg_ddb (s : State) (r : Reg) (v : Word64) : (s.setReg r v).ddb = s.ddb := rfl
@[simp] theorem setReg_agenda (s : State) (r : Reg) (v : Word64) : (s.setReg r v).agenda = s.agenda := rfl
@[simp] theorem setReg_clock (s : State) (r : Reg) (v : Word64) : (s.setReg r v).clock = s.clock := rfl
@[simp] theorem setReg_nextId (s : State) (r : Reg) (v : Word64) : (s.setReg r v).nextId = s.nextId := rfl
@[simp] theorem setReg_fresh (s : State) (r : Reg) (v : Word64) : (s.setReg r v).fresh = s.fresh := rfl

/-! `jump` -/

@[simp] theorem jump_rest (s : State) (pc : Word64) : (s.jump pc).rest = s.rest := rfl
@[simp] theorem jump_crews (s : State) (pc : Word64) : (s.jump pc).crews = s.crews := rfl
@[simp] theorem jump_gangs (s : State) (pc : Word64) : (s.jump pc).gangs = s.gangs := rfl
@[simp] theorem jump_fields (s : State) (pc : Word64) : (s.jump pc).fields = s.fields := rfl
@[simp] theorem jump_cores (s : State) (pc : Word64) : (s.jump pc).cores = s.cores := rfl
@[simp] theorem jump_gau (s : State) (pc : Word64) : (s.jump pc).gau = s.gau := rfl
@[simp] theorem jump_chips (s : State) (pc : Word64) : (s.jump pc).chips = s.chips := rfl
@[simp] theorem jump_dram (s : State) (pc : Word64) : (s.jump pc).dram = s.dram := rfl
@[simp] theorem jump_epochs (s : State) (pc : Word64) : (s.jump pc).epochs = s.epochs := rfl
@[simp] theorem jump_access (s : State) (pc : Word64) : (s.jump pc).access = s.access := rfl
@[simp] theorem jump_wave (s : State) (pc : Word64) : (s.jump pc).wave = s.wave := rfl
@[simp] theorem jump_evsel (s : State) (pc : Word64) : (s.jump pc).evsel = s.evsel := rfl
@[simp] theorem jump_evcnt (s : State) (pc : Word64) : (s.jump pc).evcnt = s.evcnt := rfl
@[simp] theorem jump_pairs (s : State) (pc : Word64) : (s.jump pc).pairs = s.pairs := rfl
@[simp] theorem jump_ports (s : State) (pc : Word64) : (s.jump pc).ports = s.ports := rfl
@[simp] theorem jump_lamps (s : State) (pc : Word64) : (s.jump pc).lamps = s.lamps := rfl
@[simp] theorem jump_host (s : State) (pc : Word64) : (s.jump pc).host = s.host := rfl
@[simp] theorem jump_sconce (s : State) (pc : Word64) : (s.jump pc).sconce = s.sconce := rfl
@[simp] theorem jump_ddb (s : State) (pc : Word64) : (s.jump pc).ddb = s.ddb := rfl
@[simp] theorem jump_agenda (s : State) (pc : Word64) : (s.jump pc).agenda = s.agenda := rfl
@[simp] theorem jump_clock (s : State) (pc : Word64) : (s.jump pc).clock = s.clock := rfl
@[simp] theorem jump_nextId (s : State) (pc : Word64) : (s.jump pc).nextId = s.nextId := rfl
@[simp] theorem jump_fresh (s : State) (pc : Word64) : (s.jump pc).fresh = s.fresh := rfl

/-! `advance` -/

@[simp] theorem advance_rest (s : State) : s.advance.rest = s.rest := rfl
@[simp] theorem advance_crews (s : State) : s.advance.crews = s.crews := rfl
@[simp] theorem advance_gangs (s : State) : s.advance.gangs = s.gangs := rfl
@[simp] theorem advance_fields (s : State) : s.advance.fields = s.fields := rfl
@[simp] theorem advance_cores (s : State) : s.advance.cores = s.cores := rfl
@[simp] theorem advance_gau (s : State) : s.advance.gau = s.gau := rfl
@[simp] theorem advance_chips (s : State) : s.advance.chips = s.chips := rfl
@[simp] theorem advance_dram (s : State) : s.advance.dram = s.dram := rfl
@[simp] theorem advance_epochs (s : State) : s.advance.epochs = s.epochs := rfl
@[simp] theorem advance_access (s : State) : s.advance.access = s.access := rfl
@[simp] theorem advance_wave (s : State) : s.advance.wave = s.wave := rfl
@[simp] theorem advance_evsel (s : State) : s.advance.evsel = s.evsel := rfl
@[simp] theorem advance_evcnt (s : State) : s.advance.evcnt = s.evcnt := rfl
@[simp] theorem advance_pairs (s : State) : s.advance.pairs = s.pairs := rfl
@[simp] theorem advance_ports (s : State) : s.advance.ports = s.ports := rfl
@[simp] theorem advance_lamps (s : State) : s.advance.lamps = s.lamps := rfl
@[simp] theorem advance_host (s : State) : s.advance.host = s.host := rfl
@[simp] theorem advance_sconce (s : State) : s.advance.sconce = s.sconce := rfl
@[simp] theorem advance_ddb (s : State) : s.advance.ddb = s.ddb := rfl
@[simp] theorem advance_agenda (s : State) : s.advance.agenda = s.agenda := rfl
@[simp] theorem advance_clock (s : State) : s.advance.clock = s.clock := rfl
@[simp] theorem advance_nextId (s : State) : s.advance.nextId = s.nextId := rfl
@[simp] theorem advance_fresh (s : State) : s.advance.fresh = s.fresh := rfl

/-! `wait` -/

@[simp] theorem wait_rest (s : State) (w : Wait) : (s.wait w).rest = s.rest := rfl
@[simp] theorem wait_crews (s : State) (w : Wait) : (s.wait w).crews = s.crews := rfl
@[simp] theorem wait_gangs (s : State) (w : Wait) : (s.wait w).gangs = s.gangs := rfl
@[simp] theorem wait_fields (s : State) (w : Wait) : (s.wait w).fields = s.fields := rfl
@[simp] theorem wait_cores (s : State) (w : Wait) : (s.wait w).cores = s.cores := rfl
@[simp] theorem wait_gau (s : State) (w : Wait) : (s.wait w).gau = s.gau := rfl
@[simp] theorem wait_chips (s : State) (w : Wait) : (s.wait w).chips = s.chips := rfl
@[simp] theorem wait_dram (s : State) (w : Wait) : (s.wait w).dram = s.dram := rfl
@[simp] theorem wait_epochs (s : State) (w : Wait) : (s.wait w).epochs = s.epochs := rfl
@[simp] theorem wait_access (s : State) (w : Wait) : (s.wait w).access = s.access := rfl
@[simp] theorem wait_wave (s : State) (w : Wait) : (s.wait w).wave = s.wave := rfl
@[simp] theorem wait_evsel (s : State) (w : Wait) : (s.wait w).evsel = s.evsel := rfl
@[simp] theorem wait_evcnt (s : State) (w : Wait) : (s.wait w).evcnt = s.evcnt := rfl
@[simp] theorem wait_pairs (s : State) (w : Wait) : (s.wait w).pairs = s.pairs := rfl
@[simp] theorem wait_ports (s : State) (w : Wait) : (s.wait w).ports = s.ports := rfl
@[simp] theorem wait_lamps (s : State) (w : Wait) : (s.wait w).lamps = s.lamps := rfl
@[simp] theorem wait_host (s : State) (w : Wait) : (s.wait w).host = s.host := rfl
@[simp] theorem wait_sconce (s : State) (w : Wait) : (s.wait w).sconce = s.sconce := rfl
@[simp] theorem wait_ddb (s : State) (w : Wait) : (s.wait w).ddb = s.ddb := rfl
@[simp] theorem wait_agenda (s : State) (w : Wait) : (s.wait w).agenda = s.agenda := rfl
@[simp] theorem wait_clock (s : State) (w : Wait) : (s.wait w).clock = s.clock := rfl
@[simp] theorem wait_nextId (s : State) (w : Wait) : (s.wait w).nextId = s.nextId := rfl
@[simp] theorem wait_fresh (s : State) (w : Wait) : (s.wait w).fresh = s.fresh := rfl

/-! `stall` -/

@[simp] theorem stall_rest (s : State) (rs : List Reg) : (s.stall rs).rest = s.rest := rfl
@[simp] theorem stall_crews (s : State) (rs : List Reg) : (s.stall rs).crews = s.crews := rfl
@[simp] theorem stall_gangs (s : State) (rs : List Reg) : (s.stall rs).gangs = s.gangs := rfl
@[simp] theorem stall_fields (s : State) (rs : List Reg) : (s.stall rs).fields = s.fields := rfl
@[simp] theorem stall_cores (s : State) (rs : List Reg) : (s.stall rs).cores = s.cores := rfl
@[simp] theorem stall_gau (s : State) (rs : List Reg) : (s.stall rs).gau = s.gau := rfl
@[simp] theorem stall_chips (s : State) (rs : List Reg) : (s.stall rs).chips = s.chips := rfl
@[simp] theorem stall_dram (s : State) (rs : List Reg) : (s.stall rs).dram = s.dram := rfl
@[simp] theorem stall_epochs (s : State) (rs : List Reg) : (s.stall rs).epochs = s.epochs := rfl
@[simp] theorem stall_access (s : State) (rs : List Reg) : (s.stall rs).access = s.access := rfl
@[simp] theorem stall_wave (s : State) (rs : List Reg) : (s.stall rs).wave = s.wave := rfl
@[simp] theorem stall_evsel (s : State) (rs : List Reg) : (s.stall rs).evsel = s.evsel := rfl
@[simp] theorem stall_evcnt (s : State) (rs : List Reg) : (s.stall rs).evcnt = s.evcnt := rfl
@[simp] theorem stall_pairs (s : State) (rs : List Reg) : (s.stall rs).pairs = s.pairs := rfl
@[simp] theorem stall_ports (s : State) (rs : List Reg) : (s.stall rs).ports = s.ports := rfl
@[simp] theorem stall_lamps (s : State) (rs : List Reg) : (s.stall rs).lamps = s.lamps := rfl
@[simp] theorem stall_host (s : State) (rs : List Reg) : (s.stall rs).host = s.host := rfl
@[simp] theorem stall_sconce (s : State) (rs : List Reg) : (s.stall rs).sconce = s.sconce := rfl
@[simp] theorem stall_ddb (s : State) (rs : List Reg) : (s.stall rs).ddb = s.ddb := rfl
@[simp] theorem stall_agenda (s : State) (rs : List Reg) : (s.stall rs).agenda = s.agenda := rfl
@[simp] theorem stall_clock (s : State) (rs : List Reg) : (s.stall rs).clock = s.clock := rfl
@[simp] theorem stall_nextId (s : State) (rs : List Reg) : (s.stall rs).nextId = s.nextId := rfl
@[simp] theorem stall_fresh (s : State) (rs : List Reg) : (s.stall rs).fresh = s.fresh := rfl

/-! `bump` -/

@[simp] theorem bump_me (s : State) : s.bump.me = s.me := rfl
@[simp] theorem bump_rest (s : State) : s.bump.rest = s.rest := rfl
@[simp] theorem bump_crews (s : State) : s.bump.crews = s.crews := rfl
@[simp] theorem bump_gangs (s : State) : s.bump.gangs = s.gangs := rfl
@[simp] theorem bump_fields (s : State) : s.bump.fields = s.fields := rfl
@[simp] theorem bump_cores (s : State) : s.bump.cores = s.cores := rfl
@[simp] theorem bump_gau (s : State) : s.bump.gau = s.gau := rfl
@[simp] theorem bump_chips (s : State) : s.bump.chips = s.chips := rfl
@[simp] theorem bump_dram (s : State) : s.bump.dram = s.dram := rfl
@[simp] theorem bump_epochs (s : State) : s.bump.epochs = s.epochs := rfl
@[simp] theorem bump_access (s : State) : s.bump.access = s.access := rfl
@[simp] theorem bump_wave (s : State) : s.bump.wave = s.wave := rfl
@[simp] theorem bump_evsel (s : State) : s.bump.evsel = s.evsel := rfl
@[simp] theorem bump_evcnt (s : State) : s.bump.evcnt = s.evcnt := rfl
@[simp] theorem bump_pairs (s : State) : s.bump.pairs = s.pairs := rfl
@[simp] theorem bump_ports (s : State) : s.bump.ports = s.ports := rfl
@[simp] theorem bump_lamps (s : State) : s.bump.lamps = s.lamps := rfl
@[simp] theorem bump_host (s : State) : s.bump.host = s.host := rfl
@[simp] theorem bump_sconce (s : State) : s.bump.sconce = s.sconce := rfl
@[simp] theorem bump_ddb (s : State) : s.bump.ddb = s.ddb := rfl
@[simp] theorem bump_agenda (s : State) : s.bump.agenda = s.agenda := rfl
@[simp] theorem bump_clock (s : State) : s.bump.clock = s.clock := rfl
@[simp] theorem bump_nextId (s : State) : s.bump.nextId = s.nextId + 1 := rfl
@[simp] theorem bump_fresh (s : State) : s.bump.fresh = s.fresh := rfl

/-! `modify` -/

@[simp] theorem modify_me (s : State) (t : StrandId) (f : Strand → Strand) : (s.modify t f).me = (if s.me.isId t then f s.me else s.me) := rfl
@[simp] theorem modify_rest (s : State) (t : StrandId) (f : Strand → Strand) : (s.modify t f).rest = s.rest.map (fun x => if x.isId t then f x else x) := rfl
@[simp] theorem modify_crews (s : State) (t : StrandId) (f : Strand → Strand) : (s.modify t f).crews = s.crews := rfl
@[simp] theorem modify_gangs (s : State) (t : StrandId) (f : Strand → Strand) : (s.modify t f).gangs = s.gangs := rfl
@[simp] theorem modify_fields (s : State) (t : StrandId) (f : Strand → Strand) : (s.modify t f).fields = s.fields := rfl
@[simp] theorem modify_cores (s : State) (t : StrandId) (f : Strand → Strand) : (s.modify t f).cores = s.cores := rfl
@[simp] theorem modify_gau (s : State) (t : StrandId) (f : Strand → Strand) : (s.modify t f).gau = s.gau := rfl
@[simp] theorem modify_chips (s : State) (t : StrandId) (f : Strand → Strand) : (s.modify t f).chips = s.chips := rfl
@[simp] theorem modify_dram (s : State) (t : StrandId) (f : Strand → Strand) : (s.modify t f).dram = s.dram := rfl
@[simp] theorem modify_epochs (s : State) (t : StrandId) (f : Strand → Strand) : (s.modify t f).epochs = s.epochs := rfl
@[simp] theorem modify_access (s : State) (t : StrandId) (f : Strand → Strand) : (s.modify t f).access = s.access := rfl
@[simp] theorem modify_wave (s : State) (t : StrandId) (f : Strand → Strand) : (s.modify t f).wave = s.wave := rfl
@[simp] theorem modify_evsel (s : State) (t : StrandId) (f : Strand → Strand) : (s.modify t f).evsel = s.evsel := rfl
@[simp] theorem modify_evcnt (s : State) (t : StrandId) (f : Strand → Strand) : (s.modify t f).evcnt = s.evcnt := rfl
@[simp] theorem modify_pairs (s : State) (t : StrandId) (f : Strand → Strand) : (s.modify t f).pairs = s.pairs := rfl
@[simp] theorem modify_ports (s : State) (t : StrandId) (f : Strand → Strand) : (s.modify t f).ports = s.ports := rfl
@[simp] theorem modify_lamps (s : State) (t : StrandId) (f : Strand → Strand) : (s.modify t f).lamps = s.lamps := rfl
@[simp] theorem modify_host (s : State) (t : StrandId) (f : Strand → Strand) : (s.modify t f).host = s.host := rfl
@[simp] theorem modify_sconce (s : State) (t : StrandId) (f : Strand → Strand) : (s.modify t f).sconce = s.sconce := rfl
@[simp] theorem modify_ddb (s : State) (t : StrandId) (f : Strand → Strand) : (s.modify t f).ddb = s.ddb := rfl
@[simp] theorem modify_agenda (s : State) (t : StrandId) (f : Strand → Strand) : (s.modify t f).agenda = s.agenda := rfl
@[simp] theorem modify_clock (s : State) (t : StrandId) (f : Strand → Strand) : (s.modify t f).clock = s.clock := rfl
@[simp] theorem modify_nextId (s : State) (t : StrandId) (f : Strand → Strand) : (s.modify t f).nextId = s.nextId := rfl
@[simp] theorem modify_fresh (s : State) (t : StrandId) (f : Strand → Strand) : (s.modify t f).fresh = s.fresh := rfl

/-! `modifyCrew` -/

@[simp] theorem modifyCrew_me (s : State) (g : GangId) (p : Nat) (f : Crew → Crew) : (s.modifyCrew g p f).me = s.me := rfl
@[simp] theorem modifyCrew_rest (s : State) (g : GangId) (p : Nat) (f : Crew → Crew) : (s.modifyCrew g p f).rest = s.rest := rfl
@[simp] theorem modifyCrew_crews (s : State) (g : GangId) (p : Nat) (f : Crew → Crew) : (s.modifyCrew g p f).crews = s.crews.map (fun c => if c.gang == g && c.peer == p then f c else c) := rfl
@[simp] theorem modifyCrew_gangs (s : State) (g : GangId) (p : Nat) (f : Crew → Crew) : (s.modifyCrew g p f).gangs = s.gangs := rfl
@[simp] theorem modifyCrew_fields (s : State) (g : GangId) (p : Nat) (f : Crew → Crew) : (s.modifyCrew g p f).fields = s.fields := rfl
@[simp] theorem modifyCrew_cores (s : State) (g : GangId) (p : Nat) (f : Crew → Crew) : (s.modifyCrew g p f).cores = s.cores := rfl
@[simp] theorem modifyCrew_gau (s : State) (g : GangId) (p : Nat) (f : Crew → Crew) : (s.modifyCrew g p f).gau = s.gau := rfl
@[simp] theorem modifyCrew_chips (s : State) (g : GangId) (p : Nat) (f : Crew → Crew) : (s.modifyCrew g p f).chips = s.chips := rfl
@[simp] theorem modifyCrew_dram (s : State) (g : GangId) (p : Nat) (f : Crew → Crew) : (s.modifyCrew g p f).dram = s.dram := rfl
@[simp] theorem modifyCrew_epochs (s : State) (g : GangId) (p : Nat) (f : Crew → Crew) : (s.modifyCrew g p f).epochs = s.epochs := rfl
@[simp] theorem modifyCrew_access (s : State) (g : GangId) (p : Nat) (f : Crew → Crew) : (s.modifyCrew g p f).access = s.access := rfl
@[simp] theorem modifyCrew_wave (s : State) (g : GangId) (p : Nat) (f : Crew → Crew) : (s.modifyCrew g p f).wave = s.wave := rfl
@[simp] theorem modifyCrew_evsel (s : State) (g : GangId) (p : Nat) (f : Crew → Crew) : (s.modifyCrew g p f).evsel = s.evsel := rfl
@[simp] theorem modifyCrew_evcnt (s : State) (g : GangId) (p : Nat) (f : Crew → Crew) : (s.modifyCrew g p f).evcnt = s.evcnt := rfl
@[simp] theorem modifyCrew_pairs (s : State) (g : GangId) (p : Nat) (f : Crew → Crew) : (s.modifyCrew g p f).pairs = s.pairs := rfl
@[simp] theorem modifyCrew_ports (s : State) (g : GangId) (p : Nat) (f : Crew → Crew) : (s.modifyCrew g p f).ports = s.ports := rfl
@[simp] theorem modifyCrew_lamps (s : State) (g : GangId) (p : Nat) (f : Crew → Crew) : (s.modifyCrew g p f).lamps = s.lamps := rfl
@[simp] theorem modifyCrew_host (s : State) (g : GangId) (p : Nat) (f : Crew → Crew) : (s.modifyCrew g p f).host = s.host := rfl
@[simp] theorem modifyCrew_sconce (s : State) (g : GangId) (p : Nat) (f : Crew → Crew) : (s.modifyCrew g p f).sconce = s.sconce := rfl
@[simp] theorem modifyCrew_ddb (s : State) (g : GangId) (p : Nat) (f : Crew → Crew) : (s.modifyCrew g p f).ddb = s.ddb := rfl
@[simp] theorem modifyCrew_agenda (s : State) (g : GangId) (p : Nat) (f : Crew → Crew) : (s.modifyCrew g p f).agenda = s.agenda := rfl
@[simp] theorem modifyCrew_clock (s : State) (g : GangId) (p : Nat) (f : Crew → Crew) : (s.modifyCrew g p f).clock = s.clock := rfl
@[simp] theorem modifyCrew_nextId (s : State) (g : GangId) (p : Nat) (f : Crew → Crew) : (s.modifyCrew g p f).nextId = s.nextId := rfl
@[simp] theorem modifyCrew_fresh (s : State) (g : GangId) (p : Nat) (f : Crew → Crew) : (s.modifyCrew g p f).fresh = s.fresh := rfl

/-! `setChip` -/

@[simp] theorem setChip_me (s : State) (c : Nat) (x : Chiplet) : (s.setChip c x).me = s.me := rfl
@[simp] theorem setChip_rest (s : State) (c : Nat) (x : Chiplet) : (s.setChip c x).rest = s.rest := rfl
@[simp] theorem setChip_crews (s : State) (c : Nat) (x : Chiplet) : (s.setChip c x).crews = s.crews := rfl
@[simp] theorem setChip_gangs (s : State) (c : Nat) (x : Chiplet) : (s.setChip c x).gangs = s.gangs := rfl
@[simp] theorem setChip_fields (s : State) (c : Nat) (x : Chiplet) : (s.setChip c x).fields = s.fields := rfl
@[simp] theorem setChip_cores (s : State) (c : Nat) (x : Chiplet) : (s.setChip c x).cores = s.cores := rfl
@[simp] theorem setChip_gau (s : State) (c : Nat) (x : Chiplet) : (s.setChip c x).gau = s.gau := rfl
@[simp] theorem setChip_chips (s : State) (c : Nat) (x : Chiplet) : (s.setChip c x).chips = Table.put s.chips c x := rfl
@[simp] theorem setChip_dram (s : State) (c : Nat) (x : Chiplet) : (s.setChip c x).dram = s.dram := rfl
@[simp] theorem setChip_epochs (s : State) (c : Nat) (x : Chiplet) : (s.setChip c x).epochs = s.epochs := rfl
@[simp] theorem setChip_access (s : State) (c : Nat) (x : Chiplet) : (s.setChip c x).access = s.access := rfl
@[simp] theorem setChip_wave (s : State) (c : Nat) (x : Chiplet) : (s.setChip c x).wave = s.wave := rfl
@[simp] theorem setChip_evsel (s : State) (c : Nat) (x : Chiplet) : (s.setChip c x).evsel = s.evsel := rfl
@[simp] theorem setChip_evcnt (s : State) (c : Nat) (x : Chiplet) : (s.setChip c x).evcnt = s.evcnt := rfl
@[simp] theorem setChip_pairs (s : State) (c : Nat) (x : Chiplet) : (s.setChip c x).pairs = s.pairs := rfl
@[simp] theorem setChip_ports (s : State) (c : Nat) (x : Chiplet) : (s.setChip c x).ports = s.ports := rfl
@[simp] theorem setChip_lamps (s : State) (c : Nat) (x : Chiplet) : (s.setChip c x).lamps = s.lamps := rfl
@[simp] theorem setChip_host (s : State) (c : Nat) (x : Chiplet) : (s.setChip c x).host = s.host := rfl
@[simp] theorem setChip_sconce (s : State) (c : Nat) (x : Chiplet) : (s.setChip c x).sconce = s.sconce := rfl
@[simp] theorem setChip_ddb (s : State) (c : Nat) (x : Chiplet) : (s.setChip c x).ddb = s.ddb := rfl
@[simp] theorem setChip_agenda (s : State) (c : Nat) (x : Chiplet) : (s.setChip c x).agenda = s.agenda := rfl
@[simp] theorem setChip_clock (s : State) (c : Nat) (x : Chiplet) : (s.setChip c x).clock = s.clock := rfl
@[simp] theorem setChip_nextId (s : State) (c : Nat) (x : Chiplet) : (s.setChip c x).nextId = s.nextId := rfl
@[simp] theorem setChip_fresh (s : State) (c : Nat) (x : Chiplet) : (s.setChip c x).fresh = s.fresh := rfl

/-! `setCore` -/

@[simp] theorem setCore_me (s : State) (c : CoreId) (x : Core) : (s.setCore c x).me = s.me := rfl
@[simp] theorem setCore_rest (s : State) (c : CoreId) (x : Core) : (s.setCore c x).rest = s.rest := rfl
@[simp] theorem setCore_crews (s : State) (c : CoreId) (x : Core) : (s.setCore c x).crews = s.crews := rfl
@[simp] theorem setCore_gangs (s : State) (c : CoreId) (x : Core) : (s.setCore c x).gangs = s.gangs := rfl
@[simp] theorem setCore_fields (s : State) (c : CoreId) (x : Core) : (s.setCore c x).fields = s.fields := rfl
@[simp] theorem setCore_cores (s : State) (c : CoreId) (x : Core) : (s.setCore c x).cores = Table.put s.cores c x := rfl
@[simp] theorem setCore_gau (s : State) (c : CoreId) (x : Core) : (s.setCore c x).gau = s.gau := rfl
@[simp] theorem setCore_chips (s : State) (c : CoreId) (x : Core) : (s.setCore c x).chips = s.chips := rfl
@[simp] theorem setCore_dram (s : State) (c : CoreId) (x : Core) : (s.setCore c x).dram = s.dram := rfl
@[simp] theorem setCore_epochs (s : State) (c : CoreId) (x : Core) : (s.setCore c x).epochs = s.epochs := rfl
@[simp] theorem setCore_access (s : State) (c : CoreId) (x : Core) : (s.setCore c x).access = s.access := rfl
@[simp] theorem setCore_wave (s : State) (c : CoreId) (x : Core) : (s.setCore c x).wave = s.wave := rfl
@[simp] theorem setCore_evsel (s : State) (c : CoreId) (x : Core) : (s.setCore c x).evsel = s.evsel := rfl
@[simp] theorem setCore_evcnt (s : State) (c : CoreId) (x : Core) : (s.setCore c x).evcnt = s.evcnt := rfl
@[simp] theorem setCore_pairs (s : State) (c : CoreId) (x : Core) : (s.setCore c x).pairs = s.pairs := rfl
@[simp] theorem setCore_ports (s : State) (c : CoreId) (x : Core) : (s.setCore c x).ports = s.ports := rfl
@[simp] theorem setCore_lamps (s : State) (c : CoreId) (x : Core) : (s.setCore c x).lamps = s.lamps := rfl
@[simp] theorem setCore_host (s : State) (c : CoreId) (x : Core) : (s.setCore c x).host = s.host := rfl
@[simp] theorem setCore_sconce (s : State) (c : CoreId) (x : Core) : (s.setCore c x).sconce = s.sconce := rfl
@[simp] theorem setCore_ddb (s : State) (c : CoreId) (x : Core) : (s.setCore c x).ddb = s.ddb := rfl
@[simp] theorem setCore_agenda (s : State) (c : CoreId) (x : Core) : (s.setCore c x).agenda = s.agenda := rfl
@[simp] theorem setCore_clock (s : State) (c : CoreId) (x : Core) : (s.setCore c x).clock = s.clock := rfl
@[simp] theorem setCore_nextId (s : State) (c : CoreId) (x : Core) : (s.setCore c x).nextId = s.nextId := rfl
@[simp] theorem setCore_fresh (s : State) (c : CoreId) (x : Core) : (s.setCore c x).fresh = s.fresh := rfl

/-! `setGau` -/

@[simp] theorem setGau_me (s : State) (d : Fin 8) (ls : List GauLine) : (s.setGau d ls).me = s.me := rfl
@[simp] theorem setGau_rest (s : State) (d : Fin 8) (ls : List GauLine) : (s.setGau d ls).rest = s.rest := rfl
@[simp] theorem setGau_crews (s : State) (d : Fin 8) (ls : List GauLine) : (s.setGau d ls).crews = s.crews := rfl
@[simp] theorem setGau_gangs (s : State) (d : Fin 8) (ls : List GauLine) : (s.setGau d ls).gangs = s.gangs := rfl
@[simp] theorem setGau_fields (s : State) (d : Fin 8) (ls : List GauLine) : (s.setGau d ls).fields = s.fields := rfl
@[simp] theorem setGau_cores (s : State) (d : Fin 8) (ls : List GauLine) : (s.setGau d ls).cores = s.cores := rfl
@[simp] theorem setGau_gau (s : State) (d : Fin 8) (ls : List GauLine) : (s.setGau d ls).gau = Table.put s.gau d ls := rfl
@[simp] theorem setGau_chips (s : State) (d : Fin 8) (ls : List GauLine) : (s.setGau d ls).chips = s.chips := rfl
@[simp] theorem setGau_dram (s : State) (d : Fin 8) (ls : List GauLine) : (s.setGau d ls).dram = s.dram := rfl
@[simp] theorem setGau_epochs (s : State) (d : Fin 8) (ls : List GauLine) : (s.setGau d ls).epochs = s.epochs := rfl
@[simp] theorem setGau_access (s : State) (d : Fin 8) (ls : List GauLine) : (s.setGau d ls).access = s.access := rfl
@[simp] theorem setGau_wave (s : State) (d : Fin 8) (ls : List GauLine) : (s.setGau d ls).wave = s.wave := rfl
@[simp] theorem setGau_evsel (s : State) (d : Fin 8) (ls : List GauLine) : (s.setGau d ls).evsel = s.evsel := rfl
@[simp] theorem setGau_evcnt (s : State) (d : Fin 8) (ls : List GauLine) : (s.setGau d ls).evcnt = s.evcnt := rfl
@[simp] theorem setGau_pairs (s : State) (d : Fin 8) (ls : List GauLine) : (s.setGau d ls).pairs = s.pairs := rfl
@[simp] theorem setGau_ports (s : State) (d : Fin 8) (ls : List GauLine) : (s.setGau d ls).ports = s.ports := rfl
@[simp] theorem setGau_lamps (s : State) (d : Fin 8) (ls : List GauLine) : (s.setGau d ls).lamps = s.lamps := rfl
@[simp] theorem setGau_host (s : State) (d : Fin 8) (ls : List GauLine) : (s.setGau d ls).host = s.host := rfl
@[simp] theorem setGau_sconce (s : State) (d : Fin 8) (ls : List GauLine) : (s.setGau d ls).sconce = s.sconce := rfl
@[simp] theorem setGau_ddb (s : State) (d : Fin 8) (ls : List GauLine) : (s.setGau d ls).ddb = s.ddb := rfl
@[simp] theorem setGau_agenda (s : State) (d : Fin 8) (ls : List GauLine) : (s.setGau d ls).agenda = s.agenda := rfl
@[simp] theorem setGau_clock (s : State) (d : Fin 8) (ls : List GauLine) : (s.setGau d ls).clock = s.clock := rfl
@[simp] theorem setGau_nextId (s : State) (d : Fin 8) (ls : List GauLine) : (s.setGau d ls).nextId = s.nextId := rfl
@[simp] theorem setGau_fresh (s : State) (d : Fin 8) (ls : List GauLine) : (s.setGau d ls).fresh = s.fresh := rfl

/-! `setPort` -/

@[simp] theorem setPort_me (s : State) (p : PortId) (q : FabricPort) : (s.setPort p q).me = s.me := rfl
@[simp] theorem setPort_rest (s : State) (p : PortId) (q : FabricPort) : (s.setPort p q).rest = s.rest := rfl
@[simp] theorem setPort_crews (s : State) (p : PortId) (q : FabricPort) : (s.setPort p q).crews = s.crews := rfl
@[simp] theorem setPort_gangs (s : State) (p : PortId) (q : FabricPort) : (s.setPort p q).gangs = s.gangs := rfl
@[simp] theorem setPort_fields (s : State) (p : PortId) (q : FabricPort) : (s.setPort p q).fields = s.fields := rfl
@[simp] theorem setPort_cores (s : State) (p : PortId) (q : FabricPort) : (s.setPort p q).cores = s.cores := rfl
@[simp] theorem setPort_gau (s : State) (p : PortId) (q : FabricPort) : (s.setPort p q).gau = s.gau := rfl
@[simp] theorem setPort_chips (s : State) (p : PortId) (q : FabricPort) : (s.setPort p q).chips = s.chips := rfl
@[simp] theorem setPort_dram (s : State) (p : PortId) (q : FabricPort) : (s.setPort p q).dram = s.dram := rfl
@[simp] theorem setPort_epochs (s : State) (p : PortId) (q : FabricPort) : (s.setPort p q).epochs = s.epochs := rfl
@[simp] theorem setPort_access (s : State) (p : PortId) (q : FabricPort) : (s.setPort p q).access = s.access := rfl
@[simp] theorem setPort_wave (s : State) (p : PortId) (q : FabricPort) : (s.setPort p q).wave = s.wave := rfl
@[simp] theorem setPort_evsel (s : State) (p : PortId) (q : FabricPort) : (s.setPort p q).evsel = s.evsel := rfl
@[simp] theorem setPort_evcnt (s : State) (p : PortId) (q : FabricPort) : (s.setPort p q).evcnt = s.evcnt := rfl
@[simp] theorem setPort_pairs (s : State) (p : PortId) (q : FabricPort) : (s.setPort p q).pairs = s.pairs := rfl
@[simp] theorem setPort_ports (s : State) (p : PortId) (q : FabricPort) : (s.setPort p q).ports = Table.put s.ports p q := rfl
@[simp] theorem setPort_lamps (s : State) (p : PortId) (q : FabricPort) : (s.setPort p q).lamps = s.lamps := rfl
@[simp] theorem setPort_host (s : State) (p : PortId) (q : FabricPort) : (s.setPort p q).host = s.host := rfl
@[simp] theorem setPort_sconce (s : State) (p : PortId) (q : FabricPort) : (s.setPort p q).sconce = s.sconce := rfl
@[simp] theorem setPort_ddb (s : State) (p : PortId) (q : FabricPort) : (s.setPort p q).ddb = s.ddb := rfl
@[simp] theorem setPort_agenda (s : State) (p : PortId) (q : FabricPort) : (s.setPort p q).agenda = s.agenda := rfl
@[simp] theorem setPort_clock (s : State) (p : PortId) (q : FabricPort) : (s.setPort p q).clock = s.clock := rfl
@[simp] theorem setPort_nextId (s : State) (p : PortId) (q : FabricPort) : (s.setPort p q).nextId = s.nextId := rfl
@[simp] theorem setPort_fresh (s : State) (p : PortId) (q : FabricPort) : (s.setPort p q).fresh = s.fresh := rfl

/-! `addAccess` -/

@[simp] theorem addAccess_me (s : State) (a : Access) : (s.addAccess a).me = s.me := rfl
@[simp] theorem addAccess_rest (s : State) (a : Access) : (s.addAccess a).rest = s.rest := rfl
@[simp] theorem addAccess_crews (s : State) (a : Access) : (s.addAccess a).crews = s.crews := rfl
@[simp] theorem addAccess_gangs (s : State) (a : Access) : (s.addAccess a).gangs = s.gangs := rfl
@[simp] theorem addAccess_fields (s : State) (a : Access) : (s.addAccess a).fields = s.fields := rfl
@[simp] theorem addAccess_cores (s : State) (a : Access) : (s.addAccess a).cores = s.cores := rfl
@[simp] theorem addAccess_gau (s : State) (a : Access) : (s.addAccess a).gau = s.gau := rfl
@[simp] theorem addAccess_chips (s : State) (a : Access) : (s.addAccess a).chips = s.chips := rfl
@[simp] theorem addAccess_dram (s : State) (a : Access) : (s.addAccess a).dram = s.dram := rfl
@[simp] theorem addAccess_epochs (s : State) (a : Access) : (s.addAccess a).epochs = s.epochs := rfl
@[simp] theorem addAccess_access (s : State) (a : Access) : (s.addAccess a).access = s.access ++ [a] := rfl
@[simp] theorem addAccess_wave (s : State) (a : Access) : (s.addAccess a).wave = s.wave := rfl
@[simp] theorem addAccess_evsel (s : State) (a : Access) : (s.addAccess a).evsel = s.evsel := rfl
@[simp] theorem addAccess_evcnt (s : State) (a : Access) : (s.addAccess a).evcnt = s.evcnt := rfl
@[simp] theorem addAccess_pairs (s : State) (a : Access) : (s.addAccess a).pairs = s.pairs := rfl
@[simp] theorem addAccess_ports (s : State) (a : Access) : (s.addAccess a).ports = s.ports := rfl
@[simp] theorem addAccess_lamps (s : State) (a : Access) : (s.addAccess a).lamps = s.lamps := rfl
@[simp] theorem addAccess_host (s : State) (a : Access) : (s.addAccess a).host = s.host := rfl
@[simp] theorem addAccess_sconce (s : State) (a : Access) : (s.addAccess a).sconce = s.sconce := rfl
@[simp] theorem addAccess_ddb (s : State) (a : Access) : (s.addAccess a).ddb = s.ddb := rfl
@[simp] theorem addAccess_agenda (s : State) (a : Access) : (s.addAccess a).agenda = s.agenda := rfl
@[simp] theorem addAccess_clock (s : State) (a : Access) : (s.addAccess a).clock = s.clock := rfl
@[simp] theorem addAccess_nextId (s : State) (a : Access) : (s.addAccess a).nextId = s.nextId + 1 := rfl
@[simp] theorem addAccess_fresh (s : State) (a : Access) : (s.addAccess a).fresh = s.fresh := rfl

/-! `setStatus` -/

@[simp] theorem setStatus_me (s : State) (n : Nat) (st : Status) : (s.setStatus n st).me = s.me := rfl
@[simp] theorem setStatus_rest (s : State) (n : Nat) (st : Status) : (s.setStatus n st).rest = s.rest := rfl
@[simp] theorem setStatus_crews (s : State) (n : Nat) (st : Status) : (s.setStatus n st).crews = s.crews := rfl
@[simp] theorem setStatus_gangs (s : State) (n : Nat) (st : Status) : (s.setStatus n st).gangs = s.gangs := rfl
@[simp] theorem setStatus_fields (s : State) (n : Nat) (st : Status) : (s.setStatus n st).fields = s.fields := rfl
@[simp] theorem setStatus_cores (s : State) (n : Nat) (st : Status) : (s.setStatus n st).cores = s.cores := rfl
@[simp] theorem setStatus_gau (s : State) (n : Nat) (st : Status) : (s.setStatus n st).gau = s.gau := rfl
@[simp] theorem setStatus_chips (s : State) (n : Nat) (st : Status) : (s.setStatus n st).chips = s.chips := rfl
@[simp] theorem setStatus_dram (s : State) (n : Nat) (st : Status) : (s.setStatus n st).dram = s.dram := rfl
@[simp] theorem setStatus_epochs (s : State) (n : Nat) (st : Status) : (s.setStatus n st).epochs = s.epochs := rfl
@[simp] theorem setStatus_access (s : State) (n : Nat) (st : Status) : (s.setStatus n st).access = s.access.map (fun a => if a.n = n then { a with status := st } else a) := rfl
@[simp] theorem setStatus_wave (s : State) (n : Nat) (st : Status) : (s.setStatus n st).wave = s.wave := rfl
@[simp] theorem setStatus_evsel (s : State) (n : Nat) (st : Status) : (s.setStatus n st).evsel = s.evsel := rfl
@[simp] theorem setStatus_evcnt (s : State) (n : Nat) (st : Status) : (s.setStatus n st).evcnt = s.evcnt := rfl
@[simp] theorem setStatus_pairs (s : State) (n : Nat) (st : Status) : (s.setStatus n st).pairs = s.pairs := rfl
@[simp] theorem setStatus_ports (s : State) (n : Nat) (st : Status) : (s.setStatus n st).ports = s.ports := rfl
@[simp] theorem setStatus_lamps (s : State) (n : Nat) (st : Status) : (s.setStatus n st).lamps = s.lamps := rfl
@[simp] theorem setStatus_host (s : State) (n : Nat) (st : Status) : (s.setStatus n st).host = s.host := rfl
@[simp] theorem setStatus_sconce (s : State) (n : Nat) (st : Status) : (s.setStatus n st).sconce = s.sconce := rfl
@[simp] theorem setStatus_ddb (s : State) (n : Nat) (st : Status) : (s.setStatus n st).ddb = s.ddb := rfl
@[simp] theorem setStatus_agenda (s : State) (n : Nat) (st : Status) : (s.setStatus n st).agenda = s.agenda := rfl
@[simp] theorem setStatus_clock (s : State) (n : Nat) (st : Status) : (s.setStatus n st).clock = s.clock := rfl
@[simp] theorem setStatus_nextId (s : State) (n : Nat) (st : Status) : (s.setStatus n st).nextId = s.nextId := rfl
@[simp] theorem setStatus_fresh (s : State) (n : Nat) (st : Status) : (s.setStatus n st).fresh = s.fresh := rfl

/-! `dropAccess` -/

@[simp] theorem dropAccess_me (s : State) (n : Nat) : (s.dropAccess n).me = s.me := rfl
@[simp] theorem dropAccess_rest (s : State) (n : Nat) : (s.dropAccess n).rest = s.rest := rfl
@[simp] theorem dropAccess_crews (s : State) (n : Nat) : (s.dropAccess n).crews = s.crews := rfl
@[simp] theorem dropAccess_gangs (s : State) (n : Nat) : (s.dropAccess n).gangs = s.gangs := rfl
@[simp] theorem dropAccess_fields (s : State) (n : Nat) : (s.dropAccess n).fields = s.fields := rfl
@[simp] theorem dropAccess_cores (s : State) (n : Nat) : (s.dropAccess n).cores = s.cores := rfl
@[simp] theorem dropAccess_gau (s : State) (n : Nat) : (s.dropAccess n).gau = s.gau := rfl
@[simp] theorem dropAccess_chips (s : State) (n : Nat) : (s.dropAccess n).chips = s.chips := rfl
@[simp] theorem dropAccess_dram (s : State) (n : Nat) : (s.dropAccess n).dram = s.dram := rfl
@[simp] theorem dropAccess_epochs (s : State) (n : Nat) : (s.dropAccess n).epochs = s.epochs := rfl
@[simp] theorem dropAccess_access (s : State) (n : Nat) : (s.dropAccess n).access = s.access.filter (fun a => a.n != n) := rfl
@[simp] theorem dropAccess_wave (s : State) (n : Nat) : (s.dropAccess n).wave = s.wave := rfl
@[simp] theorem dropAccess_evsel (s : State) (n : Nat) : (s.dropAccess n).evsel = s.evsel := rfl
@[simp] theorem dropAccess_evcnt (s : State) (n : Nat) : (s.dropAccess n).evcnt = s.evcnt := rfl
@[simp] theorem dropAccess_pairs (s : State) (n : Nat) : (s.dropAccess n).pairs = s.pairs := rfl
@[simp] theorem dropAccess_ports (s : State) (n : Nat) : (s.dropAccess n).ports = s.ports := rfl
@[simp] theorem dropAccess_lamps (s : State) (n : Nat) : (s.dropAccess n).lamps = s.lamps := rfl
@[simp] theorem dropAccess_host (s : State) (n : Nat) : (s.dropAccess n).host = s.host := rfl
@[simp] theorem dropAccess_sconce (s : State) (n : Nat) : (s.dropAccess n).sconce = s.sconce := rfl
@[simp] theorem dropAccess_ddb (s : State) (n : Nat) : (s.dropAccess n).ddb = s.ddb := rfl
@[simp] theorem dropAccess_agenda (s : State) (n : Nat) : (s.dropAccess n).agenda = s.agenda := rfl
@[simp] theorem dropAccess_clock (s : State) (n : Nat) : (s.dropAccess n).clock = s.clock := rfl
@[simp] theorem dropAccess_nextId (s : State) (n : Nat) : (s.dropAccess n).nextId = s.nextId := rfl
@[simp] theorem dropAccess_fresh (s : State) (n : Nat) : (s.dropAccess n).fresh = s.fresh := rfl

/-! `raise` -/

@[simp] theorem raise_me (s : State) (v : Nat) : (s.raise v).me = s.me := rfl
@[simp] theorem raise_rest (s : State) (v : Nat) : (s.raise v).rest = s.rest := rfl
@[simp] theorem raise_crews (s : State) (v : Nat) : (s.raise v).crews = s.crews := rfl
@[simp] theorem raise_gangs (s : State) (v : Nat) : (s.raise v).gangs = s.gangs := rfl
@[simp] theorem raise_fields (s : State) (v : Nat) : (s.raise v).fields = s.fields := rfl
@[simp] theorem raise_cores (s : State) (v : Nat) : (s.raise v).cores = s.cores := rfl
@[simp] theorem raise_gau (s : State) (v : Nat) : (s.raise v).gau = s.gau := rfl
@[simp] theorem raise_chips (s : State) (v : Nat) : (s.raise v).chips = s.chips := rfl
@[simp] theorem raise_dram (s : State) (v : Nat) : (s.raise v).dram = s.dram := rfl
@[simp] theorem raise_epochs (s : State) (v : Nat) : (s.raise v).epochs = s.epochs := rfl
@[simp] theorem raise_access (s : State) (v : Nat) : (s.raise v).access = s.access := rfl
@[simp] theorem raise_wave (s : State) (v : Nat) : (s.raise v).wave = s.wave := rfl
@[simp] theorem raise_evsel (s : State) (v : Nat) : (s.raise v).evsel = s.evsel := rfl
@[simp] theorem raise_evcnt (s : State) (v : Nat) : (s.raise v).evcnt = s.evcnt := rfl
@[simp] theorem raise_pairs (s : State) (v : Nat) : (s.raise v).pairs = s.pairs := rfl
@[simp] theorem raise_ports (s : State) (v : Nat) : (s.raise v).ports = s.ports := rfl
@[simp] theorem raise_lamps (s : State) (v : Nat) : (s.raise v).lamps = s.lamps := rfl
@[simp] theorem raise_host (s : State) (v : Nat) : (s.raise v).host = { s.host with raised := s.host.raised ++ [v] } := rfl
@[simp] theorem raise_sconce (s : State) (v : Nat) : (s.raise v).sconce = s.sconce := rfl
@[simp] theorem raise_ddb (s : State) (v : Nat) : (s.raise v).ddb = s.ddb := rfl
@[simp] theorem raise_agenda (s : State) (v : Nat) : (s.raise v).agenda = s.agenda := rfl
@[simp] theorem raise_clock (s : State) (v : Nat) : (s.raise v).clock = s.clock := rfl
@[simp] theorem raise_nextId (s : State) (v : Nat) : (s.raise v).nextId = s.nextId := rfl
@[simp] theorem raise_fresh (s : State) (v : Nat) : (s.raise v).fresh = s.fresh := rfl

/-! `jump`: the strand with the turn -/

@[simp] theorem jump_me_who (s : State) (pc : Word64) : (s.jump pc).me.who = s.me.who := rfl
@[simp] theorem jump_me_live (s : State) (pc : Word64) : (s.jump pc).me.live = s.me.live := rfl
@[simp] theorem jump_me_s (s : State) (pc : Word64) : (s.jump pc).me.s = s.me.s := rfl
@[simp] theorem jump_me_pc (s : State) (pc : Word64) : (s.jump pc).me.pc = pc := rfl
@[simp] theorem jump_me_pend (s : State) (pc : Word64) : (s.jump pc).me.pend = s.me.pend := rfl
@[simp] theorem jump_me_asidePend (s : State) (pc : Word64) : (s.jump pc).me.asidePend = s.me.asidePend := rfl
@[simp] theorem jump_me_lf (s : State) (pc : Word64) : (s.jump pc).me.lf = s.me.lf := rfl
@[simp] theorem jump_me_lq (s : State) (pc : Word64) : (s.jump pc).me.lq = s.me.lq := rfl
@[simp] theorem jump_me_tr (s : State) (pc : Word64) : (s.jump pc).me.tr = s.me.tr := rfl
@[simp] theorem jump_me_sy (s : State) (pc : Word64) : (s.jump pc).me.sy = s.me.sy := rfl
@[simp] theorem jump_me_en (s : State) (pc : Word64) : (s.jump pc).me.en = s.me.en := rfl
@[simp] theorem jump_me_ops (s : State) (pc : Word64) : (s.jump pc).me.ops = s.me.ops := rfl
@[simp] theorem jump_me_faults (s : State) (pc : Word64) : (s.jump pc).me.faults = s.me.faults := rfl
@[simp] theorem jump_me_serving (s : State) (pc : Word64) : (s.jump pc).me.serving = s.me.serving := rfl
@[simp] theorem jump_me_replay (s : State) (pc : Word64) : (s.jump pc).me.replay = s.me.replay := rfl
@[simp] theorem jump_me_behind (s : State) (pc : Word64) : (s.jump pc).me.behind = s.me.behind := rfl
@[simp] theorem jump_me_failed (s : State) (pc : Word64) : (s.jump pc).me.failed = s.me.failed := rfl
@[simp] theorem jump_me_seen (s : State) (pc : Word64) : (s.jump pc).me.seen = s.me.seen := rfl
@[simp] theorem jump_me_redo (s : State) (pc : Word64) : (s.jump pc).me.redo = s.me.redo := rfl
@[simp] theorem jump_me_laneBarrier (s : State) (pc : Word64) : (s.jump pc).me.laneBarrier = s.me.laneBarrier := rfl
@[simp] theorem jump_me_nearFence (s : State) (pc : Word64) : (s.jump pc).me.nearFence = s.me.nearFence := rfl
@[simp] theorem jump_me_sch (s : State) (pc : Word64) : (s.jump pc).me.sch = { s.me.sch with wait := .none, woken := false, blocked := 0, issuedNow := true } := rfl

/-! `advance`: the strand with the turn -/

@[simp] theorem advance_me_who (s : State) : s.advance.me.who = s.me.who := rfl
@[simp] theorem advance_me_live (s : State) : s.advance.me.live = s.me.live := rfl
@[simp] theorem advance_me_s (s : State) : s.advance.me.s = s.me.s := rfl
@[simp] theorem advance_me_pc (s : State) : s.advance.me.pc = s.me.pc + 4 := rfl
@[simp] theorem advance_me_pend (s : State) : s.advance.me.pend = s.me.pend := rfl
@[simp] theorem advance_me_asidePend (s : State) : s.advance.me.asidePend = s.me.asidePend := rfl
@[simp] theorem advance_me_lf (s : State) : s.advance.me.lf = s.me.lf := rfl
@[simp] theorem advance_me_lq (s : State) : s.advance.me.lq = s.me.lq := rfl
@[simp] theorem advance_me_tr (s : State) : s.advance.me.tr = s.me.tr := rfl
@[simp] theorem advance_me_sy (s : State) : s.advance.me.sy = s.me.sy := rfl
@[simp] theorem advance_me_en (s : State) : s.advance.me.en = s.me.en := rfl
@[simp] theorem advance_me_ops (s : State) : s.advance.me.ops = s.me.ops := rfl
@[simp] theorem advance_me_faults (s : State) : s.advance.me.faults = s.me.faults := rfl
@[simp] theorem advance_me_serving (s : State) : s.advance.me.serving = s.me.serving := rfl
@[simp] theorem advance_me_replay (s : State) : s.advance.me.replay = s.me.replay := rfl
@[simp] theorem advance_me_behind (s : State) : s.advance.me.behind = s.me.behind := rfl
@[simp] theorem advance_me_failed (s : State) : s.advance.me.failed = s.me.failed := rfl
@[simp] theorem advance_me_seen (s : State) : s.advance.me.seen = s.me.seen := rfl
@[simp] theorem advance_me_redo (s : State) : s.advance.me.redo = s.me.redo := rfl
@[simp] theorem advance_me_laneBarrier (s : State) : s.advance.me.laneBarrier = s.me.laneBarrier := rfl
@[simp] theorem advance_me_nearFence (s : State) : s.advance.me.nearFence = s.me.nearFence := rfl
@[simp] theorem advance_me_sch (s : State) : s.advance.me.sch = { s.me.sch with wait := .none, woken := false, blocked := 0, issuedNow := true } := rfl

/-! `wait`: the strand with the turn -/

@[simp] theorem wait_me_who (s : State) (w : Wait) : (s.wait w).me.who = s.me.who := rfl
@[simp] theorem wait_me_live (s : State) (w : Wait) : (s.wait w).me.live = s.me.live := rfl
@[simp] theorem wait_me_s (s : State) (w : Wait) : (s.wait w).me.s = s.me.s := rfl
@[simp] theorem wait_me_pc (s : State) (w : Wait) : (s.wait w).me.pc = s.me.pc := rfl
@[simp] theorem wait_me_pend (s : State) (w : Wait) : (s.wait w).me.pend = s.me.pend := rfl
@[simp] theorem wait_me_asidePend (s : State) (w : Wait) : (s.wait w).me.asidePend = s.me.asidePend := rfl
@[simp] theorem wait_me_lf (s : State) (w : Wait) : (s.wait w).me.lf = s.me.lf := rfl
@[simp] theorem wait_me_lq (s : State) (w : Wait) : (s.wait w).me.lq = s.me.lq := rfl
@[simp] theorem wait_me_tr (s : State) (w : Wait) : (s.wait w).me.tr = s.me.tr := rfl
@[simp] theorem wait_me_sy (s : State) (w : Wait) : (s.wait w).me.sy = s.me.sy := rfl
@[simp] theorem wait_me_en (s : State) (w : Wait) : (s.wait w).me.en = s.me.en := rfl
@[simp] theorem wait_me_ops (s : State) (w : Wait) : (s.wait w).me.ops = s.me.ops := rfl
@[simp] theorem wait_me_faults (s : State) (w : Wait) : (s.wait w).me.faults = s.me.faults := rfl
@[simp] theorem wait_me_serving (s : State) (w : Wait) : (s.wait w).me.serving = s.me.serving := rfl
@[simp] theorem wait_me_replay (s : State) (w : Wait) : (s.wait w).me.replay = s.me.replay := rfl
@[simp] theorem wait_me_behind (s : State) (w : Wait) : (s.wait w).me.behind = s.me.behind := rfl
@[simp] theorem wait_me_failed (s : State) (w : Wait) : (s.wait w).me.failed = s.me.failed := rfl
@[simp] theorem wait_me_seen (s : State) (w : Wait) : (s.wait w).me.seen = s.me.seen := rfl
@[simp] theorem wait_me_redo (s : State) (w : Wait) : (s.wait w).me.redo = s.me.redo := rfl
@[simp] theorem wait_me_laneBarrier (s : State) (w : Wait) : (s.wait w).me.laneBarrier = s.me.laneBarrier := rfl
@[simp] theorem wait_me_nearFence (s : State) (w : Wait) : (s.wait w).me.nearFence = s.me.nearFence := rfl
@[simp] theorem wait_me_sch (s : State) (w : Wait) : (s.wait w).me.sch = { s.me.sch with wait := w, woken := false } := rfl

/-! A register write -/

@[simp] theorem strand_setReg_who (x : Strand) (n : Nat) (r : Reg) (v : Word64) : (x.setReg n r v).who = x.who := by
  unfold Strand.setReg; split <;> rfl
@[simp] theorem strand_setReg_live (x : Strand) (n : Nat) (r : Reg) (v : Word64) : (x.setReg n r v).live = x.live := by
  unfold Strand.setReg; split <;> rfl
@[simp] theorem strand_setReg_pc (x : Strand) (n : Nat) (r : Reg) (v : Word64) : (x.setReg n r v).pc = x.pc := by
  unfold Strand.setReg; split <;> rfl
@[simp] theorem strand_setReg_pend (x : Strand) (n : Nat) (r : Reg) (v : Word64) : (x.setReg n r v).pend = x.pend := by
  unfold Strand.setReg; split <;> rfl
@[simp] theorem strand_setReg_asidePend (x : Strand) (n : Nat) (r : Reg) (v : Word64) : (x.setReg n r v).asidePend = x.asidePend := by
  unfold Strand.setReg; split <;> rfl
@[simp] theorem strand_setReg_lf (x : Strand) (n : Nat) (r : Reg) (v : Word64) : (x.setReg n r v).lf = x.lf := by
  unfold Strand.setReg; split <;> rfl
@[simp] theorem strand_setReg_lq (x : Strand) (n : Nat) (r : Reg) (v : Word64) : (x.setReg n r v).lq = x.lq := by
  unfold Strand.setReg; split <;> rfl
@[simp] theorem strand_setReg_tr (x : Strand) (n : Nat) (r : Reg) (v : Word64) : (x.setReg n r v).tr = x.tr := by
  unfold Strand.setReg; split <;> rfl
@[simp] theorem strand_setReg_sy (x : Strand) (n : Nat) (r : Reg) (v : Word64) : (x.setReg n r v).sy = x.sy := by
  unfold Strand.setReg; split <;> rfl
@[simp] theorem strand_setReg_en (x : Strand) (n : Nat) (r : Reg) (v : Word64) : (x.setReg n r v).en = x.en := by
  unfold Strand.setReg; split <;> rfl
@[simp] theorem strand_setReg_ops (x : Strand) (n : Nat) (r : Reg) (v : Word64) : (x.setReg n r v).ops = x.ops := by
  unfold Strand.setReg; split <;> rfl
@[simp] theorem strand_setReg_faults (x : Strand) (n : Nat) (r : Reg) (v : Word64) : (x.setReg n r v).faults = x.faults := by
  unfold Strand.setReg; split <;> rfl
@[simp] theorem strand_setReg_serving (x : Strand) (n : Nat) (r : Reg) (v : Word64) : (x.setReg n r v).serving = x.serving := by
  unfold Strand.setReg; split <;> rfl
@[simp] theorem strand_setReg_replay (x : Strand) (n : Nat) (r : Reg) (v : Word64) : (x.setReg n r v).replay = x.replay := by
  unfold Strand.setReg; split <;> rfl
@[simp] theorem strand_setReg_behind (x : Strand) (n : Nat) (r : Reg) (v : Word64) : (x.setReg n r v).behind = x.behind := by
  unfold Strand.setReg; split <;> rfl
@[simp] theorem strand_setReg_failed (x : Strand) (n : Nat) (r : Reg) (v : Word64) : (x.setReg n r v).failed = x.failed := by
  unfold Strand.setReg; split <;> rfl
@[simp] theorem strand_setReg_seen (x : Strand) (n : Nat) (r : Reg) (v : Word64) : (x.setReg n r v).seen = x.seen := by
  unfold Strand.setReg; split <;> rfl
@[simp] theorem strand_setReg_redo (x : Strand) (n : Nat) (r : Reg) (v : Word64) : (x.setReg n r v).redo = x.redo := by
  unfold Strand.setReg; split <;> rfl
@[simp] theorem strand_setReg_nearFence (x : Strand) (n : Nat) (r : Reg) (v : Word64) : (x.setReg n r v).nearFence = x.nearFence := by
  unfold Strand.setReg; split <;> rfl
@[simp] theorem strand_setReg_sch (x : Strand) (n : Nat) (r : Reg) (v : Word64) : (x.setReg n r v).sch = x.sch := by
  unfold Strand.setReg; split <;> rfl

end Sys2Proof.Laws.State
end

