-- ==== Sys2Proof/Laws/Operations.lean ====
section
/-! SUPPORT. What each shared operation over registers and traps can do, said once: register reads and writes (R12), stalls (R25), the check
order of scalar instructions (R105), trap entry (R451, R460). -/

namespace Sys2Proof.Laws.Operations

open Sys2Proof.Machine Sys2Proof.Safety

/-! ## Registers -/

@[simp] theorem reg_zero (s : State) : s.reg 0 = 0 := rfl

@[simp] theorem setReg_zero (s : State) (v : Word64) : s.setReg 0 v = s := by
  simp [State.setReg, Strand.setReg]

/-- A read after a register write (R12). -/
theorem reg_setReg (s : State) (d r : Reg) (v : Word64) : (s.setReg d v).reg r = if r = d ∧ d ≠ 0 then v else s.reg r := by
  by_cases hd : d = 0
  · subst hd; simp [setReg_zero]
  · unfold State.reg State.setReg Strand.setReg
    simp only [hd, if_false]
    by_cases h0 : r = 0
    · have : ¬ (r = d ∧ d ≠ 0) := fun h => hd (h.1 ▸ h0)
      simp only [h0, if_true]
      rw [if_neg (by intro h; exact hd h.1.symm)]
    · simp only [h0, if_false]
      by_cases hr : r = d
      · subst hr
        simp [hd]
      · have hne : (d : Nat) ≠ r := fun h => hr (Fin.ext h.symm)
        simp [hne, hr]

@[simp] theorem reg_advance (s : State) (r : Reg) : s.advance.reg r = s.reg r := rfl
@[simp] theorem reg_jump (s : State) (pc : Word64) (r : Reg) : (s.jump pc).reg r = s.reg r := rfl
@[simp] theorem reg_wait (s : State) (w : Wait) (r : Reg) : (s.wait w).reg r = s.reg r := rfl
@[simp] theorem reg_stall (s : State) (rs : List Reg) (r : Reg) : (s.stall rs).reg r = s.reg r := rfl

/-! ## Bytes -/

/-- A change of the strand with the turn alone changes no byte. -/
theorem sameBytes_me (s : State) (x : Strand) : SameBytes s { s with me := x } := ⟨fun _ => rfl, fun _ => rfl, fun _ _ => rfl⟩

theorem sameBytes_refl (s : State) : SameBytes s s := ⟨fun _ => rfl, fun _ => rfl, fun _ _ => rfl⟩

theorem sameBytes_trans {s t u : State} (h : SameBytes s t) (k : SameBytes t u) : SameBytes s u :=
  ⟨fun a => (k.1 a).trans (h.1 a), fun a => (k.2.1 a).trans (h.2.1 a), fun g p => (k.2.2 g p).trans (h.2.2 g p)⟩

/-- Two states with the same memories and crews have the same bytes. -/
theorem sameBytes_of_eq {s t : State} (hd : t.dram = s.dram) (hh : t.host.mem = s.host.mem) (hc : t.crews = s.crews) : SameBytes s t :=
  ⟨fun _ => by rw [hd], fun _ => by rw [hh], fun _ _ => by unfold State.crewOf; rw [hc]⟩

/-! ## Stalls and results -/

/-- No register that an instruction uses is pending. -/
theorem pending_of_ready {s : State} {rs : List Reg} (h : Ready s rs) : s.pending rs = false := by
  simp only [State.pending, List.any_eq_false]
  intro r hr
  simp [h r hr]

theorem ready_mono {s : State} {rs rs' : List Reg} (h : Ready s rs) (hs : ∀ r ∈ rs', r ∈ rs) : Ready s rs' := fun r hr => h r (hs r hr)

/-- A stall leaves everything but what the stream waits for. -/
theorem stall_eq (s : State) (rs : List Reg) : ∃ w, s.stall rs = s.wait w := ⟨_, rfl⟩

/-- A register result: the stream stalls, or the value is written and the pc moves on. -/
theorem compute_cases (s : State) (d : Reg) (srcs : List Reg) (v : Word64) :
    (s.pending (d :: srcs) = true ∧ s.compute d srcs v = s.stall (d :: srcs)) ∨
    (s.pending (d :: srcs) = false ∧ s.compute d srcs v = (s.setReg d v).advance) := by
  unfold State.compute
  cases h : s.pending (d :: srcs) <;> simp

/-- What a written result changes. -/
theorem onlyReg_result (s : State) (d : Reg) (v : Word64) : OnlyReg s ((s.setReg d v).advance) d := by
  refine ⟨?_, ?_, ?_, ?_⟩
  · unfold State.advance State.jump State.setReg Strand.setReg moved
    by_cases hd : d = 0 <;> simp [hd]
  · unfold State.advance State.jump State.setReg Strand.setReg
    by_cases hd : d = 0 <;> simp [hd]
  · intro r hr
    rw [reg_advance, reg_setReg, if_neg (fun h => hr h.1)]
  · exact sameBytes_of_eq rfl rfl rfl

/-- An instruction that computes a register result completes, when no register it uses is pending. -/
theorem computes_of {s : State} {i : Instr} {d : Reg} {srcs : List Reg} {v : Word64} (hi : exec i s = .next (s.compute d srcs v))
    (h : Ready s (d :: srcs)) : Computes s i d v := by
  refine ⟨_, hi, ?_⟩
  rcases compute_cases s d srcs v with ⟨hp, -⟩ | ⟨-, e⟩
  · rw [pending_of_ready h] at hp; cases hp
  · rw [e]
    refine ⟨?_, ?_, onlyReg_result s d v⟩
    · rw [reg_advance, reg_setReg]
      by_cases hd : d = 0 <;> simp [hd]
    · simp [State.setReg]

/-! ## The check order -/

/-- Undefined, Role, a stall, or the effect (R105). -/
theorem checked_cases (s : State) (ok role : Bool) (rs : List Reg) (eff : State → State) :
    (ok = false ∧ s.checked ok role rs eff = s.undefined) ∨
    (ok = true ∧ role = false ∧ s.checked ok role rs eff = s.raiseTrap roleCause 0) ∨
    (ok = true ∧ role = true ∧ s.pending rs = true ∧ s.checked ok role rs eff = s.stall rs) ∨
    (ok = true ∧ role = true ∧ s.pending rs = false ∧ s.checked ok role rs eff = eff s) := by
  unfold State.checked
  cases ok <;> cases role <;> cases h : s.pending rs <;> simp

theorem checked_ready {s : State} {rs : List Reg} (eff : State → State) (h : Ready s rs) : s.checked true true rs eff = eff s := by
  simp [State.checked, pending_of_ready h]

/-! ## Trap entry -/

/-- Giving up stalled requests changes the strand's core and nothing else. -/
theorem unstalled_unstall (s : State) : Unstalled s (s.unstall s.me.who.id) := by
  refine ⟨?_, fun c hc => ?_⟩
  · simp [State.unstall, State.core, State.setCore, Memory.get_put_same]
  · simp [State.unstall, State.core, State.setCore, Memory.get_put, hc]

/-- A trap of scalar origin of a strand that can take it (R451, R460). -/
theorem trapped_trapAt {s : State} (h : CanTrap s) (c : BitVec 8) (a r : Word64) : Trapped s (s.trapAt c a r) c a r := by
  obtain ⟨h1, h2, h3⟩ := h
  have hf : (({ s.me with tr := { s.me.tr with ecause := c, eaddr := a, espc := r } } : Strand)).fatalKind = none := by
    simp only [Strand.fatalKind, h2, Bool.false_eq_true, if_false]
    exact if_neg h3
  have hm : (s.unstall s.me.who.id).me = s.me := rfl
  have e : s.trapAt c a r =
      { s.unstall s.me.who.id with
        me := (({ s.me with tr := { s.me.tr with ecause := c, eaddr := a, espc := r } } : Strand).unparked s.clock).toHandler false 0 0
          0xFFFFFFFFFFFFFFFFFFFFFFFF#96 } := by
    have hu : ((({ s.me with tr := { s.me.tr with ecause := c, eaddr := a, espc := r } } : Strand)).unparked s.clock).fatalKind = none := hf
    have hc : (s.unstall s.me.who.id).clock = s.clock := rfl
    simp only [State.trapAt, h1, State.enterTrap, Bool.false_eq_true, if_false, hm, hc, hu]
  rw [e]
  refine ⟨rfl, rfl, ?_, ?_, rfl, rfl, rfl, ?_, ?_, ?_, unstalled_unstall s, ⟨fun _ => rfl, fun _ => rfl, fun _ _ => rfl⟩⟩
  · refine ⟨?_, ?_, ?_⟩ <;> simp [Strand.toHandler, Strand.unparked, maskPart]
  · intro q h56 h57 h58
    have h56' : (56 : Nat) ≠ q := fun h => h56 (Fin.ext h.symm)
    have h57' : (57 : Nat) ≠ q := fun h => h57 (Fin.ext h.symm)
    have h58' : (58 : Nat) ≠ q := fun h => h58 (Fin.ext h.symm)
    simp [State.reg, Strand.toHandler, Strand.unparked, h56', h57', h58']
  · intro p
    simp only [Strand.toHandler, Strand.unparked, List.mem_filter]
    rcases p with ⟨r, _ | _⟩ <;> simp
  · intro p
    simp only [Strand.toHandler, Strand.unparked, List.mem_filter]
    rcases p with ⟨r, _ | _⟩ <;> simp
  · rfl

/-- A precise trap: the instruction is the resume point. -/
theorem trapped_raiseTrap {s : State} (h : CanTrap s) (c : BitVec 8) (a : Word64) : Trapped s (s.raiseTrap c a) c a s.me.pc := trapped_trapAt h c a _

theorem trapped_undefined {s : State} (h : CanTrap s) : Trapped s s.undefined 0x01 0 s.me.pc := trapped_trapAt h _ _ _

/-- While lane instructions are in progress, the trapping instruction has no effect yet. -/
theorem trapAt_busy {s : State} (h : s.me.laneBusy = true) (c : BitVec 8) (a r : Word64) :
    s.trapAt c a r = { s with me := { s.me with lq := { s.me.lq with draining := true }, sch := { s.me.sch with wait := .none } } } := by
  simp [State.trapAt, h]

end Sys2Proof.Laws.Operations
end

