-- ==== Sys2Proof/Tests/Slice0.lean ====
section
/-! SUPPORT. Tests: ill-formed terms that the check refuses, words of the spec that decode, results that the spec works out, and for every
statement a state and operands that meet the hypotheses of its clauses. -/

namespace Sys2Proof.Tests

open Sys2Proof.Machine Sys2Proof.Safety

-- One theorem after another: the threads of many at once would not fit in memory.
set_option Elab.async false

/-! ## Well-formedness (R82, R107, R112) -/

/-- Scalar terms, one for each check, that the check refuses. -/
theorem test_illFormed_scalar : ([.bc 7 4 0, .dbnz 0 1, .lrun 61 0 0, .lrunr 61 4 0, .lwait 9, .mget 4 3 0, .mset 4 3 0, .ld 4 5 6 false 7 0, .ld 4 5 6 true 0 3,
    .st 4 5 6 7 0, .amo 4 5 6 12 false false, .amoNr 4 5 6 15 false false, .fenceAr 5, .fenceAcq 6, .fenceRel 7, .rlock 4 5 2, .runlock 4 5 2, .wlock 4 5 2,
    .wunlock 4 5 7, .push 4 5 true 0, .pop 4 5 true 0, .qtryPush 4 5 6 true 0, .qtryPop 4 5 true 0, .qinfo 4 5 true 0, .cpy 0 4 0 0, .cpy 61 4 0 0,
    .cpy 4 5 0 6, .cpyg 60 4 0, .waitc 0 8, .mloop 61 4, .cstore 61 4 0, .cstore 4 5 7, .xmvm 62 0, .nlaunch 60 4, .nrowZero 62 4, .nrowCopy 0 4,
    .gets 4 0x040, .sets 4 0x041, .sets 4 0x008] : List Instr).all (fun i => !i.wellFormed) = true := by decide

/-- A well-formed lane instruction of two sources. -/
def two : LaneFields := ⟨.f32, 0, 0, 0, false, false, false, false, 0, .v 4, .v 6, .v 8, 0, 0⟩
/-- One source. -/
def one : LaneFields := { two with b := .v 0 }
/-- An integer one. -/
def int : LaneFields := { two with ty := .n32 }
/-- A gather without destination. -/
def store : LaneFields := { two with dst := .v 0, w2 := 10 }

theorem test_wellFormed_neighbours : ([.vadd two, .vfma { two with w2 := 7 }, .vabs one, .vsqrt one, .viadd int, .vmov one, .vld { two with b := .lane },
    .vst store, .vcmp { two with dst := .v 0 }, .vaddBe { two with ty := .af32, be := true }] : List Instr).all Instr.wellFormed = true := by decide

/-- Terms with a modifier, a per-opcode bit, an operand or a type that their opcode does not take. -/
theorem test_illFormed_fields : ([.vadd { two with ty := .i32 }, .vadd { two with cond := 1 }, .vadd { two with wb := true }, .vadd { two with be := true },
    .vadd { two with sat := true }, .vmin { two with rm := 1 }, .vmin { two with sr := true }, .vadd { two with hi4 := 8 }, .vadd { two with hi4 := 1 },
    .vadd { two with hi5 := 1 }, .vadd { two with dst := .acc 0 }, .vadd { two with dst := .k 0 }, .vadd { two with dst := .imm }, .vadd { two with a := .acc 0 },
    .vadd { two with b := .lane }, .vadd { two with ty := .f64, dst := .v 5 }, .vadd { two with ty := .f64, a := .v 5 }, .vadd { two with w2 := 1 },
    .vfma { two with w2 := 168 }, .vfma { two with w2 := 171 }, .vfma { two with w2 := 0x207 }, .vfma { two with a := .imm, w2 := 7 }, .vabs two,
    .vabs { one with hi4 := 8 }, .vrcp { one with ty := .f64 }, .viadd { int with ty := .f32 }, .viadd { int with rm := 1 }, .vand { int with sat := true },
    .viabs { one with ty := .n32 }, .vnot one, .vimad { int with w2 := 168 }] : List Instr).all (fun i => !i.wellFormed) = true := by decide

theorem test_illFormed_moves : ([.vcmp two, .vcmp { two with dst := .v 0, cond := 7 }, .vcmp { int with dst := .v 0, cond := 6 }, .vsel { two with hi5 := 8 },
    .vsel { two with ty := .o4 }, .vclass { one with ty := .n32 }, .vmov { one with ty := .af32 }, .vlane { one with sel := 1, dst := .v 0, b := .k 0 },
    .vlane { one with dst := .v 0, b := .v 3 }, .vlane { one with dst := .v 0, b := .k 0, hi4 := 1, hi5 := 24 }, .vcvt { one with w2 := 0x110000 },
    .vcvt { one with w2 := 0x400000 }, .vcvtBe { one with be := true, ty := .f32, w2 := 0x210000 }, .vqblk { one with ty := .f32 },
    .vqblk { one with ty := .e2m1, dst := .v 5 }, .vdqblk { two with hi4 := 3 }, .afma two, .aadd { two with ty := .e4m3, dst := .acc 0 },
    .aclr { one with dst := .acc 0, a := .v 0 }, .anarrow { one with hi4 := 2, a := .acc 0 }, .anarrow one, .awiden one, .vaccept { two with ty := .af32 },
    .vbound { one with ty := .af32, a := .v 5, dst := .v 0 }, .vaddBe { two with ty := .af32, be := true, a := .v 5 },
    .vaddBe { two with ty := .af32, be := true, sr := true }] : List Instr).all (fun i => !i.wellFormed) = true := by decide

theorem test_illFormed_cross : ([.vshuf { two with w2 := 7 }, .vshuf { two with b := .k 0, w2 := 164 }, .vbcast two, .vredu { two with b := .k 0, hi4 := 6 },
    .vredu { two with b := .k 0, sr := true }, .vscan { two with b := .k 0, hi5 := 1 }, .vmatch { two with b := .k 0, hi5 := 8 }, .vvote { two with b := .k 0 },
    .vsort { int with b := .k 0, dst := .v 5 }, .vsort { int with b := .k 0, ty := .n16 }, .vcompress { int with b := .k 0, w2 := 1 },
    .vredu { two with b := .k 0, hi4 := 1, hi5 := 24 }] : List Instr).all (fun i => !i.wellFormed) = true := by decide

theorem test_illFormed_memory : ([.vld { two with ty := .bs24 }, .vld { two with a := .v 5 }, .vld { two with b := .imm }, .vld { two with hi4 := 8 },
    .vld { two with w2 := 0x38000 }, .vld { two with w2 := 0x40000 }, .vld { two with w2 := 7 }, .vst { store with dst := .v 4 }, .vst { store with w2 := 168 },
    .vldl { two with a := .k 0, b := .zero }, .vldl { two with a := .k 0, b := .zero, w2 := 0x38000 }, .vldlBe { two with ty := .af32, be := true, a := .k 0, b := .zero },
    .vstl { store with a := .k 0, b := .zero, w2 := 0x80A5 }, .vatom { int with hi5 := 7 }, .vatom { two with hi5 := 2 }, .vred { int with hi5 := 16 },
    .vcas { two with w2 := 10 }, .lcopy { int with ty := .n8, dst := .v 4 }, .lcopy { int with ty := .n8, dst := .v 0, hi4 := 4 }, .vpref { int with ty := .n8, dst := .v 0, w2 := 0x8000 },
    .ncol (.k 0) (.k 0) 0, .ncol (.v 0) (.v 1) 0, .ncol (.v 0) (.k 0) 1, .ncolw .imm 0, .nact (.v 0) 0] : List Instr).all (fun i => !i.wellFormed) = true := by decide

/-! ## Decoding -/

/-- Scalar words written out from the formats of R33 and the opcode map of R81 decode to their instructions. -/
theorem test_decode_scalar_1 : ([
    (0x24aa300, .add 9 21 6),
    (0x24aa301, .sub 9 21 6),
    (0x24aa302, .mul 9 21 6),
    (0x24aa303, .mulh 9 21 6),
    (0x24aa304, .mulhn 9 21 6),
    (0x24aa305, .div 9 21 6),
    (0x24aa306, .divn 9 21 6),
    (0x24aa307, .rem 9 21 6),
    (0x24aa308, .remn 9 21 6),
    (0x24aa310, .and 9 21 6),
    (0x24aa311, .or 9 21 6),
    (0x24aa312, .xor 9 21 6),
    (0x24aa313, .andn 9 21 6),
    (0x24aa318, .shl 9 21 6),
    (0x24aa319, .shr 9 21 6),
    (0x24aa31a, .sra 9 21 6),
    (0x24aa31b, .rol 9 21 6),
    (0x24aa320, .min 9 21 6),
    (0x24aa321, .max 9 21 6),
    (0x24aa322, .minn 9 21 6),
    (0x24aa323, .maxn 9 21 6),
    (0x24aa328, .seq 9 21 6),
    (0x24aa329, .sne 9 21 6),
    (0x24aa32a, .slt 9 21 6)
  ] : List (Nat × Instr)).all (fun p => decodeTableWord 32 p.1 == some p.2) = true := by decide +kernel

/-- Scalar words written out from the formats of R33 and the opcode map of R81 decode to their instructions. -/
theorem test_decode_scalar_2 : ([
    (0x24aa32b, .sle 9 21 6),
    (0x24aa32c, .sltn 9 21 6),
    (0x24aa32d, .slen 9 21 6),
    (0x24aa030, .popc 9 21),
    (0x24aa031, .clz 9 21),
    (0x24aa032, .ctz 9 21),
    (0x24aa038, .sextb 9 21),
    (0x24aa039, .sexth 9 21),
    (0x24aa03a, .sextw 9 21),
    (0x24aa03b, .zextb 9 21),
    (0x24aa03c, .zexth 9 21),
    (0x24aa03d, .zextw 9 21),
    (0x44abffd, .addi 9 21 0x1ffd),
    (0x64abffd, .andi 9 21 0x1ffd),
    (0x84abffd, .ori 9 21 0x1ffd),
    (0xa4abffd, .xori 9 21 0x1ffd),
    (0xc4aa025, .shli 9 21 37),
    (0xe4aa025, .shri 9 21 37),
    (0x104aa025, .srai 9 21 37),
    (0x124abffd, .slti 9 21 0x1ffd),
    (0x144abffd, .sltni 9 21 0x1ffd),
    (0x164ffffd, .ldi 9 0x7fffd),
    (0x184ffffd, .ldk 9 0x7fffd),
    (0x1a4aa30b, .sel 9 21 6 11)
  ] : List (Nat × Instr)).all (fun p => decodeTableWord 32 p.1 == some p.2) = true := by decide +kernel

/-- Scalar words written out from the formats of R33 and the opcode map of R81 decode to their instructions. -/
theorem test_decode_scalar_3 : ([
    (0x21fffffd, .b 0x1fffffd),
    (0x23fffffd, .bal 0x1fffffd),
    (0x2515fffd, .bc 4 21 0xfffd),
    (0x2602a000, .jr 21),
    (0x284aa000, .jalr 9 21),
    (0x2a15fffd, .dbnz 21 0xfffd),
    (0x30404005, .lrun 8 1 5),
    (0x3242a003, .lrunr 8 21 3),
    (0x34000003, .lwait 3),
    (0x3648000b, .mget 9 1 3),
    (0x3802a015, .mset 21 2 5),
    (0x404aa33a, .ld 9 21 6 true 6 2),
    (0x424aa307, .st 9 21 6 1 3),
    (0x444aa31e, .amo 9 21 6 7 true false),
    (0x444aa365, .amoNr 9 21 6 9 false true),
    (0x464aa34d, .cas 9 21 6 true 13),
    (0x48000003, .fenceAr 3),
    (0x4800000b, .fenceAcq 3),
    (0x48000013, .fenceRel 3),
    (0x4a4aa004, .rlock 9 21 1),
    (0x4c4aa004, .runlock 9 21 1),
    (0x4e4aa004, .wlock 9 21 1),
    (0x504aa004, .wunlock 9 21 1),
    (0x523aa000, .pause 7 21)
  ] : List (Nat × Instr)).all (fun p => decodeTableWord 32 p.1 == some p.2) = true := by decide +kernel

/-- Scalar words written out from the formats of R33 and the opcode map of R81 decode to their instructions. -/
theorem test_decode_scalar_4 : ([
    (0x5402a331, .qdef 21 6 17),
    (0x5602a311, .push 21 6 false 17),
    (0x58480311, .pop 9 6 false 17),
    (0x5a4aa311, .qtryPush 9 21 6 false 17),
    (0x5a480351, .qtryPop 9 6 false 17),
    (0x5c480311, .qinfo 9 6 false 17),
    (0x6002a354, .cpy 21 6 2 5),
    (0x6202a340, .cpyg 21 6 2),
    (0x64000025, .waitc 2 5),
    (0x6602a300, .mlds 21 6),
    (0x68000000, .mswap),
    (0x6a02a300, .mloop 21 6),
    (0x6c02a314, .cstore 21 6 5),
    (0x6e02a300, .cclr 21 6),
    (0x7002a002, .xprog 21 2),
    (0x7202a002, .xmvm 21 2),
    (0x74000002, .xtrim 2),
    (0x764aa002, .xcal 9 21 2),
    (0x7802a300, .nlaunch 21 6),
    (0x7a02a300, .nred 21 6),
    (0x7c02a300, .nrowZero 21 6),
    (0x7c02a301, .nrowCopy 21 6),
    (0x7e000000, .nfence),
    (0x804aa000, .flaunch 9 21)
  ] : List (Nat × Instr)).all (fun p => decodeTableWord 32 p.1 == some p.2) = true := by decide +kernel

/-- Scalar words written out from the formats of R33 and the opcode map of R81 decode to their instructions. -/
theorem test_decode_scalar_5 : ([
    (0x824aa300, .pdisc 9 21 6),
    (0xe0480009, .gets 9 9),
    (0xe202a0f0, .sets 21 0xf0),
    (0xe4001234, .trap 0x1234),
    (0xe6000000, .sret),
    (0xe84aa300, .mapft 9 21 6),
    (0xea4aa300, .tlbinvOwn 9 21 6),
    (0xea4aa301, .tlbinvAsid 9 21 6),
    (0xea4aa302, .tlbinvAll 9 21 6),
    (0xea4aa303, .tlbinvAllasid 9 21 6),
    (0xec4aa300, .ccinvWb 9 21 6),
    (0xec4aa301, .ccinvInv 9 21 6),
    (0xec4aa302, .ccinvWbinv 9 21 6),
    (0xee000000, .halt),
    (0xee000001, .haltGang),
    (0xf0001234, .brk 0x1234),
    (0xe202a041, .rngseedWrite 21),
    (0xe0480040, .flagsRead 9),
    (0xe202a040, .flagsWrite 21),
    (0xe202a001, .lcbWrite 21),
    (0xe202a020, .qbaseWrite 21),
    (0xe202a010, .prioWrite 21),
    (0xe202a008, .tvecWrite 21)
  ] : List (Nat × Instr)).all (fun p => decodeTableWord 32 p.1 == some p.2) = true := by decide +kernel

/-- Lane words written out from R34, R35, R44, R106 and the opcode map of R112, with their instructions. -/
def laneRows1 : List (Nat × Instr) := [
    (0x180a0401110602, .vadd ⟨.f32, 0, 3, 0, false, false, false, false, 2, .v 4, .v 5, .v 6, 0, 0⟩),
    (0x200c0401210010, .vaddBe ⟨.af32, 0, 0, 0, false, true, false, false, 0, .v 4, .v 6, .v 8, 0, 0⟩),
    (0x180a0402138000, .vsub ⟨.bf16, 8, 0, 0, false, false, false, false, 0, .v 4, .v 5, .v 6, 0, 0⟩),
    (0x180a0403120004, .vmul ⟨.f16, 0, 0, 0, false, false, false, true, 0, .v 4, .v 5, .v 6, 0, 0⟩),
    (0x4000000002a0281603210010, .vmulBe ⟨.af32, 0, 0, 0, false, true, false, false, 0, .v 22, .v 20, .imm, 0, 0x40000000⟩),
    (0x700180a0404110001, .vfma ⟨.f32, 0, 0, 0, false, false, false, false, 1, .v 4, .v 5, .v 6, 0, 0x7⟩),
    (0xa00200c0404210010, .vfmaBe ⟨.af32, 0, 0, 0, false, true, false, false, 0, .v 4, .v 6, .v 8, 0, 0xa⟩),
    (0x180a0405110000, .vmin ⟨.f32, 0, 0, 0, false, false, false, false, 0, .v 4, .v 5, .v 6, 0, 0⟩),
    (0x180a0406110000, .vmax ⟨.f32, 0, 0, 0, false, false, false, false, 0, .v 4, .v 5, .v 6, 0, 0⟩),
    (0x200c0406210010, .vmaxBe ⟨.af32, 0, 0, 0, false, true, false, false, 0, .v 4, .v 6, .v 8, 0, 0⟩),
    (0xa0407110000, .vabs ⟨.f32, 0, 0, 0, false, false, false, false, 0, .v 4, .v 5, .v 0, 0, 0⟩),
    (0xa0408120000, .vneg ⟨.f16, 0, 0, 0, false, false, false, false, 0, .v 4, .v 5, .v 0, 0, 0⟩)]
def laneRows2 : List (Nat × Instr) := [
    (0x180a0409110003, .vdiv ⟨.f32, 0, 0, 0, false, false, false, false, 3, .v 4, .v 5, .v 6, 0, 0⟩),
    (0xa040a110000, .vsqrt ⟨.f32, 0, 0, 0, false, false, false, false, 0, .v 4, .v 5, .v 0, 0, 0⟩),
    (0xa040b130000, .vrcp ⟨.bf16, 0, 0, 0, false, false, false, false, 0, .v 4, .v 5, .v 0, 0, 0⟩),
    (0xa040c110000, .vrsq ⟨.f32, 0, 0, 0, false, false, false, false, 0, .v 4, .v 5, .v 0, 0, 0⟩),
    (0xa040d120000, .vexp2 ⟨.f16, 0, 0, 0, false, false, false, false, 0, .v 4, .v 5, .v 0, 0, 0⟩),
    (0xa040e110000, .vlog2 ⟨.f32, 0, 0, 0, false, false, false, false, 0, .v 4, .v 5, .v 0, 0, 0⟩),
    (0xa040f110001, .vrnd ⟨.f32, 0, 0, 0, false, false, false, false, 1, .v 4, .v 5, .v 0, 0, 0⟩),
    (0x180a0410030008, .viadd ⟨.i32, 0, 0, 0, false, false, true, false, 0, .v 4, .v 5, .v 6, 0, 0⟩),
    (0x180a0411090000, .visub ⟨.n8, 0, 0, 0, false, false, false, false, 0, .v 4, .v 5, .v 6, 0, 0⟩),
    (0x180a0412020000, .vimul ⟨.i16, 0, 0, 0, false, false, false, false, 0, .v 4, .v 5, .v 6, 0, 0⟩),
    (0x180a04130b0000, .vimulh ⟨.n32, 0, 0, 0, false, false, false, false, 0, .v 4, .v 5, .v 6, 0, 0⟩),
    (0x700180a0414030000, .vimad ⟨.i32, 0, 0, 0, false, false, false, false, 0, .v 4, .v 5, .v 6, 0, 0x7⟩)]
def laneRows3 : List (Nat × Instr) := [
    (0x180a0415030000, .vimin ⟨.i32, 0, 0, 0, false, false, false, false, 0, .v 4, .v 5, .v 6, 0, 0⟩),
    (0x180a0416030000, .vimax ⟨.i32, 0, 0, 0, false, false, false, false, 0, .v 4, .v 5, .v 6, 0, 0⟩),
    (0xa0417010008, .viabs ⟨.i8, 0, 0, 0, false, false, true, false, 0, .v 4, .v 5, .v 0, 0, 0⟩),
    (0x180a04180b0000, .vand ⟨.n32, 0, 0, 0, false, false, false, false, 0, .v 4, .v 5, .v 6, 0, 0⟩),
    (0x180a04190a0000, .vor ⟨.n16, 0, 0, 0, false, false, false, false, 0, .v 4, .v 5, .v 6, 0, 0⟩),
    (0x180a041a0b0000, .vxor ⟨.n32, 0, 0, 0, false, false, false, false, 0, .v 4, .v 5, .v 6, 0, 0⟩),
    (0xa041b0b0000, .vnot ⟨.n32, 0, 0, 0, false, false, false, false, 0, .v 4, .v 5, .v 0, 0, 0⟩),
    (0x180a041c0b0000, .vshl ⟨.n32, 0, 0, 0, false, false, false, false, 0, .v 4, .v 5, .v 6, 0, 0⟩),
    (0x180a041d030000, .vshr ⟨.i32, 0, 0, 0, false, false, false, false, 0, .v 4, .v 5, .v 6, 0, 0⟩),
    (0xa041e0b0000, .vpopc ⟨.n32, 0, 0, 0, false, false, false, false, 0, .v 4, .v 5, .v 0, 0, 0⟩),
    (0xa041f0b0000, .vclz ⟨.n32, 0, 0, 0, false, false, false, false, 0, .v 4, .v 5, .v 0, 0, 0⟩),
    (0x8180a0028110080, .vcmp ⟨.f32, 0, 0, 2, false, false, false, false, 0, .v 0, .v 5, .v 6, 1, 0⟩)]
def laneRows4 : List (Nat × Instr) := [
    (0x18180a0429110000, .vsel ⟨.f32, 0, 0, 0, false, false, false, false, 0, .v 4, .v 5, .v 6, 3, 0⟩),
    (0xa042a110000, .vclass ⟨.f32, 0, 0, 0, false, false, false, false, 0, .v 4, .v 5, .v 0, 0, 0⟩),
    (0x3fc00000000150032b110000, .vmov ⟨.f32, 0, 0, 0, false, false, false, false, 0, .v 3, .imm, .v 0, 0, 0x3fc00000⟩),
    (0x4aa008002c110000, .vlane ⟨.f32, 0, 0, 0, false, false, false, false, 0, .v 0, .v 4, .imm, 9, 0⟩),
    (0x11000000000a0430140000, .vcvt ⟨.e4m3, 0, 0, 0, false, false, false, false, 0, .v 4, .v 5, .v 0, 0, 0x110000⟩),
    (0x21000000000c0430120010, .vcvtBe ⟨.f16, 0, 0, 0, false, true, false, false, 0, .v 4, .v 6, .v 0, 0, 0x210000⟩),
    (0xa0431160000, .vqblk ⟨.e2m1, 0, 0, 0, false, false, false, false, 0, .v 4, .v 5, .v 0, 0, 0⟩),
    (0x180a0432111000, .vdqblk ⟨.f32, 1, 0, 0, false, false, false, false, 0, .v 4, .v 5, .v 6, 0, 0⟩),
    (0xc048038110000, .afma ⟨.f32, 0, 0, 0, false, false, false, false, 0, .acc 0, .v 2, .v 3, 0, 0⟩),
    (0xd048139030008, .aadd ⟨.i32, 0, 0, 0, false, false, true, false, 0, .acc 1, .acc 2, .v 3, 0, 0⟩),
    (0x853a100000, .aclr ⟨.f64, 0, 0, 0, false, false, false, false, 0, .acc 5, .v 0, .v 0, 0, 0⟩),
    (0x106043b110000, .anarrow ⟨.f32, 0, 0, 0, false, false, false, false, 0, .v 4, .acc 3, .v 0, 0, 0⟩)]
def laneRows5 : List (Nat × Instr) := [
    (0xa873c0a0000, .awiden ⟨.n16, 0, 0, 0, false, false, false, false, 0, .acc 7, .v 5, .v 0, 0, 0⟩),
    (0x4a94001641210000, .vaccept ⟨.af32, 0, 0, 0, false, false, false, false, 0, .v 22, .v 0, .k 1, 9, 0⟩),
    (0x20002c0042211000, .vbound ⟨.af32, 1, 0, 0, false, false, false, false, 0, .v 0, .v 22, .v 0, 4, 0⟩),
    (0xa400180a0448110000, .vshuf ⟨.f32, 0, 0, 0, false, false, false, false, 0, .v 4, .v 5, .v 6, 0, 0xa4⟩),
    (0x2900a0449030000, .vbcast ⟨.i32, 0, 0, 0, false, false, false, false, 0, .v 4, .v 5, .k 0, 0, 0⟩),
    (0x2900a044a110020, .vredu ⟨.f32, 0, 0, 0, true, false, false, false, 0, .v 4, .v 5, .k 0, 0, 0⟩),
    (0x2900a044b033000, .vscan ⟨.i32, 3, 0, 0, false, false, false, false, 0, .v 4, .v 5, .k 0, 0, 0⟩),
    (0x12900a044c0b0000, .vmatch ⟨.n32, 0, 0, 0, false, false, false, false, 0, .v 4, .v 5, .k 0, 2, 0⟩),
    (0x2900a044d0b6020, .vvote ⟨.n32, 6, 0, 0, true, false, false, false, 0, .v 4, .v 5, .k 0, 0, 0⟩),
    (0x2900c044e111000, .vsort ⟨.f32, 1, 0, 0, false, false, false, false, 0, .v 4, .v 6, .k 0, 0, 0⟩),
    (0xa0002900a044f0b0020, .vcompress ⟨.n32, 0, 0, 0, true, false, false, false, 0, .v 4, .v 5, .k 0, 0, 0xa00⟩),
    (0x2a9480250110000, .vld ⟨.f32, 0, 0, 0, false, false, false, false, 0, .v 2, .k 0, .zero, 0, 0⟩)]
def laneRows6 : List (Nat × Instr) := [
    (0xc0302a5480051114000, .vst ⟨.f32, 4, 0, 0, false, false, false, false, 0, .v 0, .k 0, .lane, 0, 0xc03⟩),
    (0x800002a94a04520a0000, .vldl ⟨.n16, 0, 0, 0, false, false, false, false, 0, .v 4, .k 1, .zero, 0, 0x8000⟩),
    (0x2800002a94a1452210010, .vldlBe ⟨.af32, 0, 0, 0, false, true, false, false, 0, .v 20, .k 1, .zero, 0, 0x28000⟩),
    (0x1800902a94a0053110000, .vstl ⟨.f32, 0, 0, 0, false, false, false, false, 0, .v 0, .k 1, .zero, 0, 0x18009⟩),
    (0xc0aa81004540b0000, .vatom ⟨.n32, 0, 0, 0, false, false, false, false, 0, .v 4, .v 8, .zero, 1, 0xc⟩),
    (0xa0c0829480055114000, .vred ⟨.f32, 4, 0, 0, false, false, false, false, 0, .v 0, .k 0, .v 10, 1, 0xa0c⟩),
    (0xc00181004560b0000, .vcas ⟨.n32, 0, 0, 0, false, false, false, false, 0, .v 4, .v 8, .v 6, 0, 0xc⟩),
    (0x18a090021480057092000, .lcopy ⟨.n8, 2, 0, 0, false, false, false, false, 0, .v 0, .k 0, .v 8, 0, 0x18a09⟩),
    (0x18100058098000, .vpref ⟨.n8, 8, 0, 0, false, false, false, false, 0, .v 0, .v 8, .v 6, 0, 0⟩)]
def laneRows : List (Nat × Instr) := laneRows1 ++ laneRows2 ++ laneRows3 ++ laneRows4 ++ laneRows5 ++ laneRows6
theorem test_decode_lane : laneRows.all (fun p => decodeTableWord 96 p.1 == some p.2) = true := by decide +kernel

/-- Candle-only words of R416 and R417 decode to their instructions. -/
theorem test_decode_candle_1 : ([
    (0x800000060000000, .nif 1),
    (0x61000000, .nelse),
    (0x62000000, .nendif),
    (0x14e00630b0000, .ncol (.v 0) (.k 3) 0),
    (0x14e00640b0000, .ncolw (.k 3) 0),
    (0x14e0065000000, .nact (.k 3) 0)
  ] : List (Nat × Instr)).all (fun p => decodeTableWord 96 p.1 == some p.2) = true := by decide +kernel


/-! ## Results the spec works out -/

/-- Whether a step gives a next state with a property. -/
def nextSat (o : Host.Outcome State Fault Refusal) (p : State → Bool) : Bool := match o with | .next t => p t | _ => false

/-- The worked `addi s4, s5, -3` as the first instruction after reset. -/
theorem test_step_addi : nextSat (step (State.reset.withFetchWord 32 0x0420BFFD)) (fun t => t.reg 4 == 0xFFFFFFFFFFFFFFFD#64 && t.me.pc == 4#64) = true := by
  decide +kernel
/-- The sums of the worked field of the scalar chapter: 0x7FFF…FFFF + 3 wraps (R86). -/
theorem test_add_wraps : ((0x7FFFFFFFFFFFFFFF#64 + 3#64) = 0x8000000000000002#64) := by decide +kernel
/-- The worked conversions (R126): 300.0 to e4m3 is 288 and inexact, −150.0 to i8 clamps and is invalid, 0xFB of e5m2 is −57,344. -/
theorem test_convert : Arith.convert .f32 .e4m3 Arith.nearest 0x43960000 = (0x79, Arith.inexact) ∧
    (Arith.convert .f32 .i8 ⟨Arith.modeOf false 1, 0⟩ 0xC3160000).2 = Arith.invalid ∧
    imageOf .i8 (Arith.convert .f32 .i8 ⟨Arith.modeOf false 1, 0⟩ 0xC3160000).1 = 0xFFFFFF80 ∧
    Arith.convert .e5m2 .f32 Arith.nearest 0xFB = (0xC7600000, 0) := by decide +kernel

/-! ## Witnesses: for every clause of every statement, a state and operands that meet its hypotheses -/

/-- A strand of a role, with the given scalar registers. -/
def unit (role : BitVec 2) (rs : List (Reg × Word64) := []) : State := rs.foldl (fun s p => s.setReg p.1 p.2) (State.reset.loadStrand role)

/-- Its strand changed. -/
def withMe (s : State) (f : Strand → Strand) : State := { s with me := f s.me }
/-- In supervisor mode. -/
def supervisor (s : State) : State := withMe s (fun x => { x with tr := { x.tr with sup := true } })
/-- With a run of lane instructions. -/
def running (s : State) (ws : List (BitVec 96)) : State :=
  withMe s (fun x => { x with lq := { x.lq with runs := [{ id := 0, start := 0, words := ws, next := 0, k := [0, 0, 0, 0], em := x.em, pol := [], done := [], marks := [], after := 0 }] } })

theorem witness_integers : Ready (unit 3) [9, 5, 6] ∧ Ready (unit 3) [0, 0, 0] ∧ Ready (unit 3 [(5, 1), (6, 0x8000000000000000#64)]) [5, 5, 6, 0] ∧
    (unit 3 [(6, 7)]).reg 6 ≠ 0 ∧ (unit 3).reg 6 = 0 ∧ CanTrap (unit 3) := by decide +kernel

/-- A register that waits for a load. -/
def waiting : State := withMe (unit 3) (fun x => x.mark 5 (.reply 1))
/-- An access in flight of the strand. -/
def flight (s : State) (n : Nat) (kind : Kind) (entry : Bool) : Access :=
  { scalarAccess s 9 false entry kind 0 0x4000000000#64 8 0 0 0 with n }
/-- The core's waiting table is full. -/
def full : State := { unit 3 [(5, 64)] with access := (List.range 256).map (fun n => { flight (unit 3) n .load true with strand := ⟨⟨0, 0, 0⟩, 9⟩ }) }

theorem witness_pendingStall : ¬ Ready waiting [9, 5, 6] ∧ Ready full [9, 5, 6] ∧ Pol.ok ((full.reg 6).setWidth 32) ∧
    Pol.release ((full.reg 6).setWidth 32) = false ∧ GlobalReady full (full.reg 5) 8 ∧ full.entryFree false = false := by decide +kernel

/-- s5 and s21 are pending in a strand of a role. -/
def waitingAs (role : BitVec 2) : State := withMe (unit role) (fun x => (x.mark 5 (.reply 1)).mark 21 (.run 2))

theorem witness_pendingForms : ([waitingAs 0, waitingAs 1, waitingAs 2, waitingAs 3].all (fun s => s.me.isPending 5 && s.me.isPending 21)) ∧
    (waitingAs 0).me.who.role = 0 ∧ (waitingAs 1).me.who.role = 1 ∧ (waitingAs 2).me.who.role = 2 ∧ (waitingAs 3).me.who.role = 3 ∧
    ((regNames 20 3).contains 21 && (regNames 20 4).contains 21 && (regNames 20 5).contains 21) ∧ cmdRegs 20 4 ∧ (Instr.mloop 20 6).wellFormed ∧
    (Instr.cstore 20 6 0).wellFormed ∧ (Instr.xmvm 20 0).wellFormed ∧ (Instr.cpyg 20 6 0).wellFormed ∧ (Instr.nlaunch 20 6).wellFormed ∧
    (waitingAs 3).sysRead 0x03C ≠ none ∧ userBits 0x03C ≠ 0 ∧ (Instr.sets 5 0x03C).wellFormed ∧ (Instr.gets 5 0x03C).wellFormed ∧
    (supervisor (waitingAs 3)).me.tr.sup := by decide +kernel

theorem witness_branches : Ready (unit 3) [59] ∧ Ready (unit 3 [(5, 64)]) [9, 5] ∧ (5 : Reg) ≠ 0 ∧ ((unit 3 [(5, 64)]).reg 5).toNat % 4 = 0 ∧
    ((unit 3 [(5, 66)]).reg 5).toNat % 4 ≠ 0 ∧ CanTrap (unit 3 [(5, 66)]) ∧ (unit 1).me.who.role = 1 ∧ CanTrap (unit 1) ∧ 60 < (61 : Reg).val ∧ (60 : Reg).val ≤ 60 := by decide +kernel

theorem pair_of {α β : Type} (p : α × β) (b : β) (h : p.2 = b) : ∃ a, p = (a, b) := ⟨p.1, by rw [← h]⟩

/-- The core holds granule 0 of the code. -/
def coded (s : State) (bs : List Byte) : State :=
  s.setCore s.me.who.id.core { s.core s.me.who.id.core with fetch := [⟨0, s.me.sy.asid, patch zeroGranule 0 bs, true, false⟩] }

theorem witness_constantLoad : Ready (coded (unit 3) []) [9] ∧ CanTrap ((unit 3).fetch (0 + 8 * (-1 : BitVec 19).signExtend 64) 8).1 ∧
    ((coded (unit 3) [1, 2, 3, 4, 5, 6, 7, 8, 9]).fetch (0 + 8 * (1 : BitVec 19).signExtend 64) 8).2 = .bytes [9, 0, 0, 0, 0, 0, 0, 0] ∧
    ((unit 3).fetch (0 + 8 * (-1 : BitVec 19).signExtend 64) 8).2 = .fault 0x08 0xFFFFFFFFFFFFFFF8 ∧
    ((coded (unit 3) []).core (unit 3).me.who.id.core).fetch.length = 1 := by decide +kernel

/-- Eight runs are queued. -/
def eight (s : State) : State :=
  withMe s (fun x => { x with lq := { x.lq with runs := List.replicate 8 { id := 0, start := 0, words := [0], next := 0, k := [], em := 0, pol := [], done := [], marks := [], after := 0 } } })

theorem witness_laneRuns : (unit 0).me.who.role = 0 ∧ (unit 3).me.who.role = 3 ∧ Ready (coded (unit 3) []) [60, 61, 62, 63, 5, 56, 57, 58] ∧
    ((coded (unit 3) []).fetch ((coded (unit 3) []).me.sy.lcb + 12 * (1 : BitVec 14).setWidth 64) 12).2 = .bytes (List.replicate 12 0) ∧
    ((coded (eight (unit 3)) []).fetch ((coded (eight (unit 3)) []).me.sy.lcb + 12 * (1 : BitVec 14).setWidth 64) 12).2 = .bytes (List.replicate 12 0) ∧
    ((coded (unit 3) []).fetch ((coded (unit 3) []).me.sy.lcb + 12 * (coded (unit 3) []).reg 5) 12).2 = .bytes (List.replicate 12 0) ∧
    (unit 3).me.lq.runs.length < 8 ∧ 8 ≤ (eight (unit 3)).me.lq.runs.length ∧ (laneWordsOf (List.replicate 12 0) 1).filterMap lanePolicy = [] := by
  decide +kernel

theorem witness_laneWaitAndMasks : (unit 3).me.lq.runs.length ≤ 0 ∧ (8 : BitVec 19).toNat ≤ 8 ∧ (7 : Nat) < (eight (unit 3)).me.lq.runs.length ∧
    (unit 3).me.lanesEmpty ∧ (2 : BitVec 2) ≠ 3 := by decide +kernel

/-- The policy word 0: strand scope, relaxed. -/
theorem witness_scalarAccessIssue : Ready (unit 3 [(5, 0x4000000008)]) [9, 5, 6] ∧ Pol.ok (((unit 3).reg 6).setWidth 32) ∧ (unit 3).entryFree false ∧
    GlobalReady (unit 3) 0x4000000008 8 ∧ GlobalReady (unit 3) 0x00FFFFFFFFFFFFF8 8 ∧ Pol.acquire 0 = false ∧ Pol.release 0 = false ∧ (unit 3).me.lanesReleased ∧
    (Instr.amo 9 5 6 11 true false).wellFormed ∧ (Instr.amoNr 9 5 6 0 false false).wellFormed ∧ (unit 3).me.reduceFull = false ∧ Ready (unit 3) [13] := by
  decide +kernel

theorem witness_ownRegionAccess : ∃ c, (unit 3 [(5, 65528)]).crewOf (unit 3).me.who.gang (unit 3).me.who.peer = some c ∧
    Ready (unit 3 [(5, 65528)]) [9, 5, 6] ∧ (unit 3 [(5, 65528)]).me.live ∧ 65528 < c.g * 1024 ∧ 65528 % 8 = 0 ∧ c.touchesDescriptor 65528 8 = false ∧
    (unit 3).wakingAt c 1 65528 8 = false ∧
    (unit 3).mayPerform (unit 3).me (scalarAccess (unit 3) 9 false false .store 1 65528 8 0 0 0) ∧
    (unit 3).mayPerform (unit 3).me (scalarAccess (unit 3) 9 false false .load 1 65528 8 0 0 0) := ⟨_, rfl, by decide +kernel⟩


/-- Two crews of one gang, on cores (0, 0) and (1, 0); the strand with the turn is of the first. -/
def twin (s : State) : State :=
  { withMe s (fun x => { x with who := { x.who with lw := 1 } }) with crews := s.crews ++ s.crews.map (fun c => { c with core := ⟨0, 1, 0⟩, peer := 1 }) }

/-- G offset 8 of peer 1, and of the own core by its number. -/
theorem witness_peerAccess :
    (let s := twin (unit 3 [(5, 0x40008)])
     Ready s [9, 5, 6] ∧ s.addressTrap s.me 6 0x40008 = none ∧ s.ownSpace 6 0x40008 = (6, 0x40008) ∧ s.hitsDescriptor s.me 6 0x40008 8 = false ∧
     0x40008 % 8 = 0 ∧ s.me.lanesReleased ∧ (Instr.amo 9 5 6 11 true true).wellFormed ∧ (Instr.amoNr 9 5 6 0 true true).wellFormed ∧ s.me.reduceFull = false) ∧
    (unit 3 [(5, 8)]).ownSpace 6 8 = (1, 8) ∧ (unit 3 [(5, 8)]).addressTrap (unit 3 [(5, 8)]).me 6 8 = none := by decide +kernel

/-- A reserved policy word, one that acquires and one that releases at device scope. -/
theorem witness_scalarMemoryTraps : CanTrap (unit 3) ∧ Numbered (unit 3) ∧ (∀ p : BitVec 3, p = 2 ∨ p = 3 ∨ p = 4 → (Instr.ld 9 5 6 false p 0).wellFormed) ∧
    (Instr.ld 9 5 6 false 5 3).wellFormed ∧ Ready (unit 3) [9, 5, 6] ∧ Pol.ok 0 ∧ Pol.ok 0xFFFFFFFF = false ∧ (Pol.ok 0xE ∧ Pol.release 0xE) ∧
    (Pol.ok 0xD ∧ Pol.acquire 0xD) ∧ canonical 0x0200000000000000 = false ∧ canonical 0x4000000004 ∧ 0x4000000004 % 8 ≠ 0 := by decide +kernel

/-- A crew whose queue 0, at G offset 0, was defined with two slots of one word at 0x400, `fill` entries and the rest allowed. -/
def queued (s : State) (fill : Nat) : State :=
  let d : Desc := { base := 0x400, size := 4, slots := 2, defined := true, reserve := false, allowance := 2 - fill, fill, head := 0, tail := 0
                    producer := 0x200000, consumer := 0x200000, phase := 0 }
  { s with crews := s.crews.map (fun c => { c with mg := writeDesc c.mg 0 d, qdefs := [0] }) }

theorem witness_descriptorStore : ∃ c, (queued (unit 3) 0).crewOf (unit 3).me.who.gang (unit 3).me.who.peer = some c ∧ c.g * 1024 ≤ 65536 ∧
    c.touchesDescriptor 24 8 ∧ c.touchesDescriptor 32 8 = false := ⟨_, rfl, by decide +kernel⟩

theorem witness_fences : (unit 3).me.lanesEmpty ∧ (unit 3).me.lanesReleased ∧ (unit 3).drained ∧ (unit 3).access = [] ∧ (4 : BitVec 3).toNat < 5 ∧
    (1 : BitVec 3).toNat < 2 ∧ (eight (unit 3)).me.lanesReleased = false ∧ ((unit 3).access.all (fun a => a.n ∉ (unit 3).me.seen)) := by decide +kernel

/-! Queues and locks. -/

theorem witness_pause : Ready (unit 3 [(7, 0x200000), (5, 65535)]) [7, 5] ∧ partyOk 0x200000 ∧ (unit 3).waitOk 0x200000 ∧ CanTrap (unit 3) ∧
    partyOk (2 ^ 63 + 2 ^ 62) = false ∧ partyOk 1048576 ∧ (unit 3).waitOk 0x01F0000 = false := by decide +kernel

theorem witness_queueDefinition : ∃ c, (unit 3 [(5, 0x0000400200000400), (6, 0x0020000000200000)]).crewOf (unit 3).me.who.gang (unit 3).me.who.peer = some c ∧
    Ready (unit 3) [5, 6] ∧ (unit 3).mayRelease ∧ (unit 3).queueServes ((unit 3).queueId 0 31) c ∧ 0x0000400200000400 = 64 * 2 ^ 40 + 2 * 2 ^ 32 + 0x400 ∧
    c.descriptor 31 + 32 ≤ c.g * 1024 ∧ 0x400 + 65 * 8 ≤ c.g * 1024 ∧ 0x0020000000200000 = 0x200000 * 2 ^ 32 + 0x200000 ∧
    (unit 3).me.who.namesSome 0x200000 ∧ c.pushers ++ c.poppers = [] ∧ (c.descAt (c.descriptor 31)).reserve = false := ⟨_, rfl, by decide +kernel⟩

/-- The same where the queue has had its operation of this cycle. -/
def contended (s : State) : State := { s with crews := s.crews.map (fun c => { c with served := [(0, [])] }) }

/-- Whether the strand stands at queue q of its own crew, and the descriptor satisfies a property. -/
def atQueue (s : State) (q : Fin 32) (p : Crew → Desc → Bool) : Bool :=
  match s.crewOf s.me.who.gang s.me.who.peer with
  | some c => decide (s.me.who.peer = 0 ∧ 0 < s.me.who.cores ∧ c.descriptor q.val + 32 ≤ c.g * 1024) && p c (c.descAt (c.descriptor q.val))
  | none => false

/-- An empty queue, a full one, one that has had its operation of this cycle, and one that no `qdef` defined. -/
theorem witness_queueTransfers :
    atQueue (queued (unit 3) 0) 0 (fun c d => d.defined && d.allowance != 0 && d.fill == 0 && inParty d.producer 0 0 && inParty d.consumer 0 0 &&
      (queued (unit 3) 0).queueServes ((unit 3).queueId 0 0) c) ∧
    atQueue (queued (unit 3) 2) 0 (fun c d => d.defined && d.allowance == 0 && d.fill != 0 && inParty d.producer 0 0 &&
      (queued (unit 3) 2).queueServes ((unit 3).queueId 0 0) c) ∧
    atQueue (contended (queued (unit 3) 0)) 0 (fun c d => d.defined && inParty d.producer 0 0 && inParty d.consumer 0 0 &&
      !(contended (queued (unit 3) 0)).queueServes ((unit 3).queueId 0 0) c) ∧
    atQueue (queued (unit 3) 2) 0 (fun c _ => let d := c.descBefore 0
      d.defined && decide (d.allowance < 256 ∧ d.fill < 256 ∧ d.head < 64 ∧ d.tail < 64 ∧ d.slots < 128)) ∧
    atQueue (unit 3) 31 (fun c d => !d.defined && !(c.descBefore 31).defined) ∧ Ready (unit 3) [5, 6, 9] ∧ (queued (unit 3) 0).mayRelease := by decide +kernel

theorem witness_queueHandsOver : ∃ m : Mem, SaneDesc 0 (readDesc m 0) ∧ (readDesc m 0).allowance ≠ 0 ∧ (readDesc m 0).fill = 0 ∧
    (readDesc m 0).head = (readDesc m 0).tail ∧ (readDesc m 0).reserve = false :=
  ⟨writeDesc [] 0 ⟨0x400, 4, 2, true, false, 2, 0, 1, 1, 0x200000, 0x200000, 0⟩, by decide +kernel⟩

/-- A queue whose parties leave the strand out. -/
theorem witness_queueTraps : CanTrap (unit 3 [(6, 31)]) ∧ Ready (unit 3) [5, 6, 9] ∧ (unit 3).me.who.cores ≤ ((unit 3 [(6, 31)]).reg 6).toNat % 32 ∧
    inParty 2 0 0 = false ∧ (true → (0 : Reg) = 0) := by decide +kernel

/-- The values of `qdef` on queue 31 that each check refuses: a size of 0, slots beyond G, reserved bits of a party, a core that is not there; a
descriptor beyond G, and a strand that is parked. -/
theorem witness_queueDefinitionTraps : ∃ c, (unit 3).myCrew = some c ∧ c.descriptor 31 + 32 ≤ c.g * 1024 ∧
    (wordBits 0x0000400000000400#64 39 32 = 0) ∧ c.g * 1024 < wordBits 0x000040400000FFFC#64 17 0 + (wordBits 0x000040400000FFFC#64 47 40 + 1) * 256 ∧
    2 ^ 22 ≤ wordBits 0x0040000000200000#64 63 32 ∧ (unit 3).me.who.namesSome (wordBits 0x0020000000010000#64 31 0) = false ∧
    ({ c with g := 0 } : Crew).g * 1024 < ({ c with g := 0 } : Crew).descriptor 31 + 32 ∧ (∃ x ∈ [((31 : Fin 32), (⟨⟨0, 0, 0⟩, 0⟩ : StrandId))], x.1 = 31) :=
  ⟨_, rfl, by decide +kernel⟩

/-- A crew lock word at G offset 64. -/
def locked (w : Nat) : State :=
  { unit 3 [(5, 64)] with crews := (unit 3).crews.map (fun c => { c with mg := c.mg.writeBytes 64 (leBytes 4 w) }) }

theorem witness_crewLocks : (∃ c, (locked 0).crewOf (unit 3).me.who.gang (unit 3).me.who.peer = some c ∧ LockWord.readable (wordAt c.mg 64) ∧
      LockWord.writable (wordAt c.mg 64) ∧ c.touchesDescriptor 64 4 = false ∧ (locked 0).wakingAt c 1 64 4 = false ∧ c.lockWaiters = [] ∧ 64 < c.g * 1024) ∧
    (∃ c, (locked (2 ^ 30)).crewOf (unit 3).me.who.gang (unit 3).me.who.peer = some c ∧ LockWord.readable (wordAt c.mg 64) = false ∧
      LockWord.writable (wordAt c.mg 64) = false) ∧ Ready (locked 0) [9, 5] ∧ (locked 0).mayRelease :=
  ⟨⟨_, rfl, by decide +kernel⟩, ⟨_, rfl, by decide +kernel⟩, by decide +kernel⟩

theorem witness_deviceLocks : Ready (unit 3 [(5, 0x4000000004)]) [9, 5] ∧ canonical 0x4000000004 ∧ aperture 0x4000000004 = false ∧ 0x4000000004 % 4 = 0 ∧
    (unit 3).mayIssue ∧ (unit 3).entryFree false ∧ (unit 3).me.sch.wait = .none ∧ (unit 3).me.lanesReleased := by decide +kernel

/-! Engine commands. -/

/-- A copy of two rows of 64 bytes from global memory to G, and a gather of the same. -/
def copyRegs : List (Reg × Word64) :=
  [(20, 0x100), (21, 0x4000000000), (22, 0x8000000002000040), (23, 0x2000004000000040), (30, 0x100), (31, 0x4000000000), (32, 0x4000000000), (33, 0x4000000002000040), (34, 0x2000000100000040)]

theorem witness_copyAcceptance : (unit 1 copyRegs).me.who.role = 1 ∧ RelaxedWord ((unit 1 copyRegs).reg 6 |>.setWidth 32) ∧
    (((unit 1).core (unit 1).me.who.id.core).copies.filter (fun k => k.kind != 2)).length < 32 ∧ (Instr.cpy 20 6 1 0).wellFormed ∧
    Ready (unit 1 copyRegs) (regNames 20 4 ++ [6]) ∧ (∀ p ∈ (copyOf false 0 ((unit 1 copyRegs).regsFrom 20 4)).operands, p.1 ≠ 7) ∧
    (unit 1 copyRegs).copyRefused ((unit 1 copyRegs).me.agent 0) (copyOf false 0 ((unit 1 copyRegs).regsFrom 20 4)) = none ∧
    (Instr.cpyg 30 6 3).wellFormed ∧ Ready (unit 1 copyRegs) (regNames 30 5 ++ [6]) ∧
    (∀ p ∈ (copyOf true 0 ((unit 1 copyRegs).regsFrom 30 5)).operands, p.1 ≠ 7) ∧
    (unit 1 copyRegs).copyRefused ((unit 1 copyRegs).me.agent 0) (copyOf true 0 ((unit 1 copyRegs).regsFrom 30 5)) = none := by decide +kernel

/-- The crew owns the matrix engine, whose active plane is loaded with unscaled e4m3; `mloop`'s registers from s20, `cstore`'s from s24. -/
def matrix : State :=
  let s := unit 2 [(5, 0x1414), (20, 0x200), (21, 0x400), (22, 0x200), (23, 1), (24, 0x4000000000), (25, 0x1100000400), (26, 0), (27, 4)]
  s.setCore s.me.who.id.core { s.core s.me.who.id.core with dme := { (s.core s.me.who.id.core).dme with owner := some s.me.crew, active := ⟨true, 0x1414, 0, []⟩ } }

theorem witness_matrixAcceptance : matrix.me.who.role = 2 ∧ MayOwn matrix ∧ MayOwn (unit 2) ∧ (matrix.core matrix.me.who.id.core).dme.queue.length < 16 ∧
    Ready matrix [4, 5] ∧ (matrix.reg 4).toNat % 512 = 0 ∧ MatrixMode.ok (matrix.reg 5) ∧ RelaxedWord ((matrix.reg 6).setWidth 32) ∧
    Ready matrix (regNames 20 4 ++ [6]) ∧ (Instr.mloop 20 6).wellFormed ∧ (Instr.cstore 24 6 0).wellFormed ∧
    (∃ c, matrix.myCrew = some c ∧ (matrix.reg 4).toNat + MatrixMode.planeBytes (matrix.reg 5) ≤ c.w * 1024 ∧ 0 + 1024 * 256 ≤ 1024 * 1024 ∧ 1024 ≤ c.exactBytes ∧
      (let l := loopOf (matrix.regsFrom 20 4)
       l.zero ∧ 0 < l.steps ∧ l.rows < 2 ∧ l.misaligned = none ∧ l.c + (l.steps - 1) * l.dc + 1024 * l.rows ≤ c.exactBytes ∧
       l.a + (l.steps - 1) * l.da + (l.rows - 1) * l.pa + MatrixMode.ra 0x1414 + MatrixMode.hb 0x1414 ≤ c.a * 1024 ∧ l.steps < 2) ∧
      (let t := storeOf (matrix.regsFrom 24 4)
       t.zero ∧ t.dt.isSome ∧ t.dsp ≠ 7 ∧ t.dsp ≠ 5 ∧ t.src % 4 = 0 ∧ t.src + (1024 * (t.rows - 1) + 4 * t.cols) ≤ c.exactBytes ∧
       matrix.storeRefused (matrix.me.agent 0) t (t.tile 0) = none)) ∧
    matrix.loopMode = some 0x1414 := by
  repeat' apply And.intro
  case right.right.right.right.right.right.right.right.right.right.right.left => exact ⟨_, rfl, by decide +kernel⟩
  all_goals decide +kernel

/-- `xprog` and `xcal` from s5, `xmvm` from s20. -/
def analog : State := unit 2 [(5, 515), (7, 0x81FE000100000FF0), (20, 0), (21, 0x0), (22, 0x3F800000)]

theorem witness_analogAcceptance : analog.me.who.role = 2 ∧ (analog.core analog.me.who.id.core).analog.length < 32 ∧ Ready analog [9, 5] ∧ Ready analog [7] ∧
    Ready analog (regNames 20 3) ∧ (Instr.xmvm 20 3).wellFormed ∧ (analog.reg 5).toNat ≤ 515 ∧
    (analog.reg 7).toNat = 1 * 2 ^ 63 + (511 - 1) * 2 ^ 48 + 1 * 2 ^ 32 + 0xFF0 ∧
    (∃ c, analog.myCrew = some c ∧ 512 ≤ c.a * 1024 ∧
      (let m := mvmOf (analog.regsFrom 20 3)
       m.zero ∧ m.r ≠ 7 ∧ m.c0 + m.nc ≤ 512 ∧ m.ia % 16 = 0 ∧ m.ob % 8 = 0 ∧ m.ia + m.n ≤ c.a * 1024 ∧ m.ob + 8 * m.nc ≤ c.boundedBytes)) := by
  repeat' apply And.intro
  case right.right.right.right.right.right.right.right => exact ⟨_, rfl, by decide +kernel⟩
  all_goals decide +kernel

/-- `nlaunch` from s20, `nred` from s26 with one source, `nrow.zero` from s30 and `nrow.copy` from s33. -/
def near : State :=
  unit 3 [(20, 0x4000000000), (21, 0x0), (26, 0x4000000000), (27, 0x4000001000), (28, 0x100), (29, 0x4000000000), (30, 0x4000000000), (31, 0), (32, 1),
    (33, 0x4000000000), (34, 0x4000010000), (35, 1)]

theorem witness_nearAcceptance : near.me.who.role = 3 ∧ (near.core near.me.who.id.core).near.length < 16 ∧ RelaxedWord ((near.reg 6).setWidth 32) ∧
    (Instr.nlaunch 20 6).wellFormed ∧ Ready near (regNames 20 5 ++ [6]) ∧ localVa (near.reg 20) ∧ (near.reg 20).toNat % 4 = 0 ∧
    Ready near (regNames 26 4 ++ [6]) ∧ wordBits (near.reg 28) 34 32 + 1 = 1 ∧ 0 < wordBits (near.reg 28) 31 0 ∧ wordBits (near.reg 28) 31 0 % 256 = 0 ∧
    ((near.regsFrom 26 4).drop 3).all (fun v => decide (v = near.reg 26 ∨ rangesMeet (near.reg 26).toNat 256 v.toNat 256 = false) &&
      !decide (v.toNat ≤ (near.reg 27).toNat ∧ (near.reg 27).toNat + 8 ≤ v.toNat + 256) && localVa v && v.toNat % 256 == 0) ∧
    ¬ ((near.reg 26).toNat ≤ (near.reg 27).toNat ∧ (near.reg 27).toNat + 8 ≤ (near.reg 26).toNat + 256) ∧ localVa (near.reg 27) ∧ (near.reg 27).toNat % 8 = 0 ∧
    (Instr.nrowZero 30 6).wellFormed ∧ Ready near (regNames 30 3 ++ [6]) ∧ near.reg 31 = 0 ∧ (near.reg 30).toNat % 65536 = 0 ∧
    (Instr.nrowCopy 33 6).wellFormed ∧ Ready near (regNames 33 3 ++ [6]) ∧ localVa (near.reg 34) ∧ (near.reg 34).toNat % 65536 = 0 ∧
    rangesMeet (near.reg 33).toNat 65536 (near.reg 34).toNat 65536 = false := by decide +kernel

/-- Another crew owns the matrix engine; the strand's crew owns it, and another waits for it. -/
def dmeState (s : State) (f : Dme → Dme) : State :=
  s.setCore s.me.who.id.core { s.core s.me.who.id.core with dme := f (s.core s.me.who.id.core).dme }
def owned : State := dmeState (unit 2) (fun d => { d with owner := some (⟨1, 1, 1⟩, 0) })
def wanted : State := dmeState (unit 2 [(5, 0x40000)]) (fun d => { d with owner := some (unit 2).me.crew, waiting := [⟨(⟨1, 1, 1⟩, 0), ⟨⟨0, 0, 0⟩, 9⟩⟩] })

/-- A copy to global memory from global memory is refused. -/
theorem witness_engineRefusals : CanTrap (unit 0) ∧ (unit 0).me.who.role ≠ 1 ∧ (unit 0).me.who.role ≠ 2 ∧ (unit 0).me.who.role ≠ 3 ∧ CanTrap (unit 1) ∧
    Ready (unit 1) (regNames 20 4 ++ [6]) ∧ (∀ p ∈ (copyOf false 0 ((unit 1).regsFrom 20 4)).operands, p.1 ≠ 7) ∧
    (unit 1).copyRefused ((unit 1).me.agent 0) (copyOf false 0 ((unit 1).regsFrom 20 4)) = some (.copy 6 0) ∧ owned.me.who.role = 2 ∧
    Ready owned [4, 5] ∧ (owned.core owned.me.who.id.core).dme.owner ≠ none ∧ (owned.core owned.me.who.id.core).dme.owner ≠ some owned.me.crew ∧
    Ready wanted [4, 5] ∧ CanTrap wanted ∧ wordBits (wanted.reg 5) 63 18 ≠ 0 ∧ (wanted.core wanted.me.who.id.core).dme.owner = some wanted.me.crew ∧
    (wanted.core wanted.me.who.id.core).dme.waiting ≠ [] ∧ (wanted.core wanted.me.who.id.core).dme.granted ≠ some wanted.me.who.id := by decide +kernel

theorem witness_engineRefusals_forms : 1 ≤ (26 : Reg).val ∧ (26 : Reg).val + 4 ≤ 64 ∧ (Instr.cpyg 20 6 1).wellFormed ∧ Ready (unit 1) (regNames 20 5 ++ [6]) ∧
    (∀ p ∈ (copyOf true 0 ((unit 1).regsFrom 20 5)).operands, p.1 ≠ 7) ∧
    (unit 1).copyRefused ((unit 1).me.agent 0) (copyOf true 0 ((unit 1).regsFrom 20 5)) = some (.copy 6 0) ∧
    (Instr.mloop 20 6).wellFormed ∧ (Instr.cstore 20 6 0).wellFormed ∧ Ready owned (regNames 20 4 ++ [6]) := by decide +kernel

/-- Two operations of class 4, of which the first is done. -/
def counting : State := withMe (unit 3) (fun x => { x with ops := [⟨1, 4, true, 3⟩, ⟨2, 4, false, 0⟩] })

theorem witness_counterWaits : (Instr.waitc 1 4).wellFormed ∧ counting.me.lanesEmpty ∧ (eight (unit 3)).me.lanesEmpty = false ∧ (counting.me.ops.filter (fun o => o.cls.val == 4)).length = 2 ∧
    counting.me.isId ⟨⟨0, 0, 0⟩, 0⟩ ∧ counting.me.ops.filter (fun o => o.cls == 4) = [⟨1, 4, true, 3⟩] ++ [⟨2, 4, false, 0⟩] := by decide +kernel

theorem witness_congruent : ({ near with ddb := { near.ddb with chips := [0] } } : State).congruent 0x4000000000 0x4000010000 = true := by
  simp only [State.congruent, State.home, State.rank, State.nChips, List.length_singleton, Nat.mod_one, List.all_eq_true, List.mem_range]
  intro i hi
  have h : (0x4000000000 + 256 * i) / 256 % 256 = (0x4000010000 + 256 * i) / 256 % 256 := by omega
  rw [h]
  simp

/-! System registers, traps and page operations. -/

theorem witness_systemRegisters : Ready (unit 3) [9, 21] ∧ (supervisor (unit 3)).me.tr.sup ∧ (unit 3).me.lanesEmpty ∧ (unit 3).myCrew.isSome ∧
    (unit 3).sysRead 0x041 ≠ none ∧ userBits 0x041 ≠ 0 ∧ (unit 3).sysRead 0x008 ≠ none ∧ userBits 0x008 = 0 ∧ (unit 3).sysRead 0xFFF = none ∧
    (unit 3).sysRead 0x0F3 ≠ none ∧ (unit 3).sysRead 0x0EF = none ∧ CanTrap (unit 3) ∧
    (eight (unit 3)).me.lanesEmpty = false ∧ Ready (eight (unit 3)) [9] := by decide +kernel

/-- A strand without a vector, and one in its handler. -/
theorem witness_softwareTraps : CanTrap (unit 3) ∧ (withMe (unit 3) (fun x => { x with tr := { x.tr with tvec := 0 } })).me.tr.tvec = 0 ∧ (unit 3).me.live ∧
    (unit 3).me.laneBusy = false ∧ (supervisor (unit 3)).me.tr.sup := by decide +kernel

/-- In the handler of a trap of an engine operation of a class. -/
def serving (cause : BitVec 8) (cls : Fin 8) : State :=
  supervisor (withMe (unit 3) (fun x => { x with tr := { x.tr with ecause := cause }, serving := some ⟨4, cause, 64, 0, 0, 0⟩, ops := [⟨4, cls, false, 0⟩] }))
/-- In a handler, with what a trap leaves: a replay list, deferred and served faults with their operations, a pending destination. -/
def leftOver : State :=
  let s := supervisor (unit 3)
  withMe s (fun x => { x with replay := [flight s 1 .load true], pend := [(9, .reply 1)], faults := [⟨4, 0x21, 64, 0, 0, 0⟩]
                              serving := some ⟨5, 0x21, 64, 0, 0, 0⟩, ops := [⟨4, 2, false, 0⟩, ⟨5, 3, false, 0⟩] })

theorem witness_serving : ([(0x21, 2), (0x21, 4), (0x20, 6), (0x18, 5), (0x19, 5)] : List (BitVec 8 × Fin 8)).all (fun p =>
      let s := serving p.1 p.2
      s.me.tr.sup && s.me.lanesEmpty && s.me.tr.ecause == p.1 && s.me.serving.isSome && s.me.ops.any (fun o => o.n == 4 && o.cls == p.2)) ∧
    (supervisor (unit 3)).me.tr.ecause ≠ 0x18 ∧ (supervisor (unit 3)).me.tr.ecause ≠ 0x19 ∧ (supervisor (unit 3)).me.tr.ecause ≠ 0x20 ∧
    (supervisor (unit 3)).me.tr.ecause ≠ 0x21 ∧ leftOver.me.tr.sup ∧ leftOver.me.faultedOps = [4, 5] ∧ leftOver.me.lanesEmpty ∧ leftOver.outstanding = 0 ∧
    (supervisor waiting).me.pend = [(5, .reply 1)] ∧ (supervisor waiting).me.replay ++ (supervisor waiting).me.behind = [] := by decide +kernel

theorem witness_returnAndHalt : (supervisor (unit 3)).me.lanesEmpty ∧ (supervisor (eight (unit 3))).me.lanesEmpty = false ∧ CanTrap (unit 3) ∧ (unit 3).me.pend = [] ∧
    (unit 3).outstanding = 0 ∧ waiting.me.pend ≠ [] ∧ (unit 3).me.live := by decide +kernel

/-- Page 0 of ASID 0 mapped through four nodes of one chiplet, with a leaf for every access; the columns of the entries stand under the device key. -/
def mapped (s : State) (leaf : Word64) : State :=
  let s := { s with ddb := { s.ddb with ready := true, dies := [0], chips := [0] }, sconce := { s.sconce with stage := 5 } }
  let s : State := { s.setChip 0 { s.chip 0 with rtroot := 0x8000000000000001 } with epochs := (List.range 6).map (fun i => (64 * (i + 1), deviceEpoch)) }
  (((((s.entryWrite 0 0x1000 0x2001).entryWrite 0 0x2000 0x3001).entryWrite 0 0x3000 0x4001).entryWrite 0 0x4000 0x5001).entryWrite 0 0x5000 0x6001).entryWrite
    0 0x6000 leaf
/-- A leaf of frame 16 with r, w and x; the same, discarded. -/
def leafOf (disc : Bool) : Word64 := if disc then 0x600000000001000F else 0x400000000001000F

/-- The homes hold these granules of ASID 0, with every right. -/
def homed (s : State) (gs : List (Nat × List Byte)) : State :=
  s.setChip 0 { s.chip 0 with llc := gs.map (fun g => ⟨g.1, 0, patch zeroGranule 0 g.2, 65536, leafOf false, false, 0, 0⟩) }

theorem witness_pageOperations : Ready (unit 3) [9, 5, 6] ∧ (unit 3).entryFree false ∧ plainAddress 0x4000000000 ∧ (supervisor (unit 3)).me.tr.sup ∧
    (∀ i, i < 1 → ∀ c, (mapped (unit 3) (leafOf false)).discardOf 0 false 0 65536 (0 + 65536 * i) ≠ .trap c) ∧
    (unit 3).nearCovers 0 0x4000000000 0x4000010000 = false ∧ plainAddress (0x4000000000#64 + 0x100#64 - 1#64) ∧ plainAddress (0#64 + 0x10000000000#64 - 1#64) ∧
    (unit 3).mayRelease ∧ (unit 3).listReady.2 ∧ CanTrap (unit 3) ∧ plainAddress 0x0200000000000000 = false ∧ (unit 3).touchWaits 0 0x4000000000 = false := by
  repeat' apply And.intro
  case right.right.right.right.left =>
    intro i hi c
    have e : (mapped (unit 3) (leafOf false)).discardOf 0 false 0 65536 0 = .discard (leafOf false) false 0 0x6000 := by decide +kernel
    obtain rfl : i = 0 := by omega
    rw [e]; intro h; cases h
  all_goals decide +kernel

/-- Whether an answer is this value; whether it is this error. -/
def okIs {α : Type} [DecidableEq α] (e : Except Nat α) (v : α) : Bool := match e with | .ok w => decide (w = v) | .error _ => false
def errorIs {α : Type} (e : Except Nat α) (n : Nat) : Bool := match e with | .error m => n == m | .ok _ => false

/-- `mapft` on a mapped page, on a page whose pool is empty, and on one whose pool gives frame 32. -/
theorem witness_firstTouch : errorIs ((mapped (unit 3) (leafOf false)).firstTouchSlot 0 0) 1 ∧ okIs ((mapped (unit 3) 0).firstTouchSlot 0 0) (0, 0x6000, false) ∧
    errorIs ((homed (mapped (unit 3) 0) [(1, [])]).takeFrame 0 0x100).2 2 ∧
    okIs ((homed (mapped (unit 3) 0) [(1, leBytes 8 0 ++ leBytes 8 1 ++ leBytes 8 0x200 ++ leBytes 8 6), (2, leBytes 8 32)]).takeFrame 0 0x100).2 (32, 6) ∧
    32 % (mapped (unit 3) 0).span = 0 ∧ 32 + (mapped (unit 3) 0).span ≤ framesPerChip := by decide +kernel

/-! The lane stream. -/

/-- A strand whose next lane instruction is the first of a run; the same with v6, v8, v20 and v22 tagged. -/
def lanesOf (role : BitVec 2) : State := running (unit role) [0]
def tagged : State := withMe (lanesOf 3) (fun x => { x with lf := { x.lf with tag := (1 <<< 6) ||| (1 <<< 8) ||| (1 <<< 20) ||| (1 <<< 22) } })

/-- Every lane instruction is ready in one of the two. -/
theorem witness_laneReady : (laneRows.map (fun p => p.2)).all (fun i =>
    (i.wellFormed && !(lanesOf 3).me.lf.badRead i && !(lanesOf 3).me.lf.badWrite i && (lanesOf 3).me.lq.chain.isNone) ||
    (i.wellFormed && !tagged.me.lf.badRead i && !tagged.me.lf.badWrite i && tagged.me.lq.chain.isNone)) = true := by decide +kernel

/-- The packed forms, and integer comparisons. -/
theorem witness_laneForms : LaneReady (lanesOf 3) (.vmul { two with ty := .f16, hi4 := 8 }) ∧ (LaneFields.pk { two with ty := .f16, hi4 := 8 }) ∧
    LaneFields.pk two = false ∧ Ty.n32.isInt ∧ LaneReady (lanesOf 3) (.afma { int with ty := .i32, dst := .acc 1 }) ∧
    LaneReady (lanesOf 3) (.anarrow { one with ty := .f64, a := .acc 1 }) ∧ LaneReady (lanesOf 3) (.awiden { one with ty := .f16, dst := .acc 1 }) := by decide +kernel

/-- The bounded forms read and write tagged even registers. -/
theorem witness_laneBounded : [Opnd.v 6, .v 8].any tagged.me.lf.isTagged ∧ (Instr.vaddBe { two with ty := .af32, be := true }).wellFormed ∧
    (Instr.vfmaBe { two with ty := .af32, be := true, w2 := 10 }).wellFormed ∧ (Instr.vcvtBe { one with ty := .f16, be := true, w2 := 0x210000 }).wellFormed ∧
    (Instr.vmulBe { two with ty := .af32, be := true }).wellFormed ∧ (Instr.vmaxBe { two with ty := .af32, be := true }).wellFormed ∧
    tagged.me.lf.tagged 22 ∧ tagged.me.lq.chain = none ∧ (Instr.vaccept { one with ty := .af32, dst := .v 22, a := .v 0, b := .k 1 }).wellFormed ∧
    (Instr.vbound { one with ty := .af32, dst := .v 0, a := .v 22 }).wellFormed ∧ tagged.me.lf.isTagged (.v 22) := by decide +kernel

/-- Segments of 4, 32 and 96 lanes, and a broadcast of lane 3. -/
def segments (w : Nat) : State := withMe (lanesOf 3) (fun x => { x with lq := { x.lq with runs := x.lq.runs.map (fun r => { r with k := [BitVec.ofNat 64 w, 0, 0, 0] }) } })

theorem witness_laneCross : memberWidth ((segments 2).me.uniform int (.k 0)) false = some 4 ∧ memberWidth ((segments 0).me.uniform int (.k 0)) false = some 96 ∧
    memberWidth ((segments 0x305).me.uniform int (.k 0)) true = some 32 := by decide +kernel

/-- A gather from k0 plus 4 for each lane in a space, a row, and a scatter. -/
def gather (sp : Nat) : LaneFields := ⟨.f32, 4, 0, 0, false, false, false, false, 0, .v 2, .k 0, .lane, 0, BitVec.ofNat 32 (sp * 32768)⟩
def scatter (sp : Nat) : LaneFields := { gather sp with dst := .v 0, w2 := BitVec.ofNat 32 (sp * 32768 + 3) }
def row (sp : Nat) : LaneFields := { gather sp with hi4 := 0, a := .k 0, b := .zero }
def rowStore (sp : Nat) : LaneFields := { row sp with dst := .v 0, w2 := BitVec.ofNat 32 (sp * 32768 + 3) }
def atomicOf (sp : Nat) : LaneFields := { gather sp with ty := .n32, hi5 := 1, w2 := BitVec.ofNat 32 (sp * 32768 + 3) }

theorem witness_laneMemoryIssue : (lanesOf 3).me.todo 0 ≠ 0 ∧ Pol.ok ((lanesOf 3).me.policy (gather 0)) ∧ Pol.release ((lanesOf 3).me.policy (gather 0)) = false ∧
    Pol.acquire ((lanesOf 3).me.policy (gather 0)) = false ∧ (lanesOf 3).entryFree true ∧ (lanesOf 3).me.reduceFull = false ∧
    LaneReady (lanesOf 3) (.vld (gather 0)) ∧ LaneAddressesOk (lanesOf 3) (.vld (gather 0)) (gather 0) 4 4 false ((lanesOf 3).me.gatherAddress (gather 0)) ∧
    LaneReady (lanesOf 3) (.vst (scatter 0)) ∧ LaneAddressesOk (lanesOf 3) (.vst (scatter 0)) (scatter 0) 4 4 true ((lanesOf 3).me.gatherAddress (scatter 0)) ∧
    LaneReady (lanesOf 3) (.vatom (atomicOf 0)) ∧
    LaneAddressesOk (lanesOf 3) (.vatom (atomicOf 0)) (atomicOf 0) 4 4 true ((lanesOf 3).me.gatherAddress (atomicOf 0)) ∧
    LaneReady (lanesOf 3) (.vred { atomicOf 0 with dst := .v 0 }) ∧ LaneReady (lanesOf 3) (.vcas { atomicOf 0 with hi4 := 0, hi5 := 0, b := .v 6 }) ∧
    LaneAddressesOk (lanesOf 3) (.vcas { atomicOf 0 with hi4 := 0, hi5 := 0, b := .v 6 }) { atomicOf 0 with hi4 := 0, hi5 := 0, b := .v 6 } 4 4 true
      ((lanesOf 3).me.dword (.k 0)) ∧
    LaneReady (lanesOf 3) (.vldl (row 6)) ∧ LaneAddressesOk (lanesOf 3) (.vldl (row 6)) (row 6) 4 1 false ((lanesOf 3).me.rowAddress (row 6) 4) ∧
    ((lanesOf 3).me.rowBase (row 6)).toNat % 4 = 0 ∧ LaneReady (lanesOf 3) (.vstl (rowStore 6)) ∧
    LaneAddressesOk (lanesOf 3) (.vstl (rowStore 6)) (rowStore 6) 4 1 true ((lanesOf 3).me.rowAddress (rowStore 6) 4) := by
  repeat' apply And.intro
  all_goals decide +kernel

/-- Atomics reach the own buffers and a peer's G; so do vld and vst. -/
theorem witness_laneMemorySpaces : ([1, 3, 4, 6].all (fun sp => decide (LaneReady (lanesOf 3) (.vatom (atomicOf sp)) ∧
      LaneAddressesOk (lanesOf 3) (.vatom (atomicOf sp)) (atomicOf sp) 4 4 true ((lanesOf 3).me.gatherAddress (atomicOf sp)) ∧
      LaneReady (lanesOf 3) (.vred { atomicOf sp with dst := .v 0 }) ∧ LaneReady (lanesOf 3) (.vcas { atomicOf sp with hi4 := 0, hi5 := 0, b := .v 6 }) ∧
      LaneAddressesOk (lanesOf 3) (.vcas { atomicOf sp with hi4 := 0, hi5 := 0, b := .v 6 }) { atomicOf sp with hi4 := 0, hi5 := 0, b := .v 6 } 4 4 true
        ((lanesOf 3).me.dword (.k 0))))) = true := by decide +kernel

theorem witness_laneMemoryPeer : LaneReady (lanesOf 3) (.vld (gather 6)) ∧
    LaneAddressesOk (lanesOf 3) (.vld (gather 6)) (gather 6) 4 4 false ((lanesOf 3).me.gatherAddress (gather 6)) ∧ LaneReady (lanesOf 3) (.vst (scatter 6)) ∧
    LaneAddressesOk (lanesOf 3) (.vst (scatter 6)) (scatter 6) 4 4 true ((lanesOf 3).me.gatherAddress (scatter 6)) ∧
    (atomicOf 6).space = 6 ∧ (gather 6).space = 6 := by decide +kernel

/-- The load of a value and its bound, from the bounded part of C. -/
def boundRow : LaneFields := ⟨.af32, 0, 0, 0, false, true, false, false, 0, .v 20, .k 1, .zero, 0, 0x28000⟩
def copyLanes : LaneFields := ⟨.n8, 2, 0, 0, false, false, false, false, 0, .v 0, .k 0, .zero, 0, BitVec.ofNat 32 (32768 + 170)⟩
def prefetch : LaneFields := ⟨.n8, 0, 0, 0, false, false, false, false, 0, .v 0, .k 0, .lane, 0, 0⟩

theorem witness_laneMemoryLocal : RelaxedWord ((lanesOf 3).me.policy (gather 1)) ∧ (lanesOf 3).myCrew.isSome ∧
    LaneReady (lanesOf 3) (.vld (gather 4)) ∧ LaneAddressesOk (lanesOf 3) (.vld (gather 4)) (gather 4) 4 4 false ((lanesOf 3).me.gatherAddress (gather 4)) ∧
    (lanesOf 3).bankFree (gather 4) .load 4 4 ((lanesOf 3).me.todo 0) ((lanesOf 3).me.gatherAddress (gather 4)) ∧
    LaneReady (lanesOf 3) (.vldl (row 2)) ∧ LaneAddressesOk (lanesOf 3) (.vldl (row 2)) (row 2) 4 1 false ((lanesOf 3).me.rowAddress (row 2) 4) ∧
    (lanesOf 3).bankFree (row 2) .load 2 4 ((lanesOf 3).me.todo 0) ((lanesOf 3).me.rowAddress (row 2) 4) ∧
    LaneReady (lanesOf 3) (.vst (scatter 1)) ∧ LaneAddressesOk (lanesOf 3) (.vst (scatter 1)) (scatter 1) 4 4 true ((lanesOf 3).me.gatherAddress (scatter 1)) ∧
    (lanesOf 3).bankFree (scatter 1) .store 1 4 ((lanesOf 3).me.todo 0) ((lanesOf 3).me.gatherAddress (scatter 1)) ∧
    LaneReady (lanesOf 3) (.vstl (rowStore 3)) ∧ LaneAddressesOk (lanesOf 3) (.vstl (rowStore 3)) (rowStore 3) 4 1 true ((lanesOf 3).me.rowAddress (rowStore 3) 4) ∧
    (lanesOf 3).bankFree (rowStore 3) .store 3 4 ((lanesOf 3).me.todo 0) ((lanesOf 3).me.rowAddress (rowStore 3) 4) ∧
    LaneReady (lanesOf 3) (.vldlBe boundRow) ∧ LaneAddressesOk (lanesOf 3) (.vldlBe boundRow) boundRow 8 1 false ((lanesOf 3).me.rowAddress boundRow 8) ∧
    ((lanesOf 3).me.rowBase boundRow).toNat % 8 = 0 ∧ (lanesOf 3).bankFree boundRow .load 5 8 ((lanesOf 3).me.todo 0) ((lanesOf 3).me.rowAddress boundRow 8) ∧
    LaneReady (lanesOf 3) (.vpref prefetch) ∧ LaneReady (lanesOf 3) (.lcopy copyLanes) := by
  repeat' apply And.intro
  all_goals decide +kernel

/-- The lanes of the scatter write apart; the lanes of the copy meet its conditions. -/
theorem witness_lanesApart : (List.finRange 96).all (fun l => decide (((lanesOf 3).me.gatherAddress (scatter 1) l).toNat = 4 * l.val) &&
    (let p := (lanesOf 3).me.copyLane copyLanes l
     decide (p.2.2 ≤ 32) && canonical p.1 && p.1.toNat % 4 == 0 && p.2.1.toNat % 32 == 0 &&
       (lanesOf 3).inRegion ((lanesOf 3).me.agent 0) 1 p.2.1 32 && !(lanesOf 3).rowsHitDescriptor ((lanesOf 3).me.agent 0) 1 p.2.1 1 1 32)) = true := by decide +kernel

theorem witness_laneTraps : CanLaneTrap (lanesOf 3) ∧ RelaxedWord ((lanesOf 3).me.policy (gather 5)) ∧ (Instr.vadd { two with ty := .i32 }).wellFormed = false ∧ (Instr.vadd two).wellFormed ∧
    tagged.me.lf.badRead (.vadd two) ∧ (lanesOf 3).me.lf.isTagged (.v 6) = false ∧ LaneReady (lanesOf 3) (.vld (gather 5)) ∧
    ((lanesOf 3).me.todo 0).getLsbD 0 ∧ CanLaneTrap tagged ∧ (lanesOf 3).wave = none ∧
    canonical ((running (unit 3) [0]).me.gatherAddress { gather 0 with b := .zero, a := .v 8 } 0) := by decide +kernel

/-- A base that is not canonical. -/
theorem witness_laneAddress : canonical ((withMe (lanesOf 3) (fun x => { x with lq := { x.lq with runs := x.lq.runs.map (fun r =>
    { r with k := [0x0200000000000000, 0, 0, 0] }) } })).me.gatherAddress (gather 0) 0) = false := by decide +kernel

/-! Candles and events. -/

/-- Whether something is there and satisfies p. -/
def someSat {α : Type} (o : Option α) (p : α → Bool) : Bool := match o with | some x => p x | none => false

/-- A wave of one bank with an open row. -/
def waving : State :=
  { unit 3 with wave := some { chip := 0, channel := 0, asid := 0, k := List.replicate 64 0, pass := 0, banks := [{ loadedBank with row := some 3 }], flags := 0 } }

theorem witness_candleInstructions : someSat waving.wave (fun w => w.banks.all (fun b => b.row.isSome) && decide (w.banks = [{ loadedBank with row := some 3 }])) ∧
    Opnd.ofCode 15 = some (.v 15) := by decide +kernel

/-- The place of the strand of `unit`, and its gang. -/
def here : StrandId := ⟨⟨0, 0, 0⟩, 0⟩
def gang : GangId := ⟨0, 0, 0⟩
/-- Scheduling state that an event waits for. -/
def scheduled (f : Sched → Sched) : State := withMe (unit 3) (fun x => x.withSched f)
/-- Two strands of one port, the second without a slot. -/
def pairOfStrands : State :=
  let s := unit 3
  { s with rest := [{ s.me with who := { s.me.who with id := ⟨⟨0, 0, 0⟩, 4⟩, cs := 1 }, sch := { s.me.sch with slot := none, wick := 5000 } }] }

theorem witness_schedulingEvents :
    someSat ((scheduled (fun k => { k with wick := 4096 })).strand here) (fun x => x.sy.lo != 0 && decide (x.sy.lo.toNat ≤ x.sch.wick) && !x.sch.promoted &&
      !x.sch.parked && !x.sch.retired && x.sch.slot.isSome) ∧
    someSat (pairOfStrands.strand ⟨⟨0, 0, 0⟩, 4⟩) (fun x => decide (x.sy.lo.toNat ≤ x.sch.wick) && x.sch.slot.isNone) ∧
    (let s := pairOfStrands.sched ⟨⟨0, 0, 0⟩, 4⟩ (fun k => { k with promoted := true })
     someSat (s.strand ⟨⟨0, 0, 0⟩, 4⟩) (fun x => x.urgent && x.sch.slot.isNone && x.who.id == ⟨⟨0, 0, 0⟩, 4⟩) ∧
     someSat (s.victim ⟨0, 0, 0⟩ 0) (fun v => v.who.id == here)) ∧
    someSat ((withMe (unit 3) (fun x => { x with sy := { x.sy with hien := true, hi := 1 }, sch := { x.sch with wick := 1 } })).strand here)
      (fun x => x.sy.hien && decide (x.sy.hi.toNat ≤ x.sch.wick) && !x.sch.starved && !x.sch.retired) ∧
    someSat ((scheduled (fun k => { k with paused := 1 })).strand here) (fun x => x.sch.paused == 1) ∧
    someSat ((scheduled (fun k => { k with halted := true })).strand here) (fun x => x.sch.halted && x.ops.isEmpty) := by decide +kernel

/-- A strand blocked on a queue for as long as BLKT allows, and one with an engine fault due while it waits for a load. -/
def blocked : State := withMe (unit 3) (fun x => { x with sy := { x.sy with blkt := 5 }, sch := { x.sch with wait := .push ⟨gang, 0, 0⟩, blocked := 5 } })
def faulty : State := withMe (unit 3) (fun x => { x with faults := [⟨1, 0x21, 64, 0, 0, 0⟩], sch := { x.sch with wait := .load } })

theorem witness_timeoutAndFault :
    someSat (blocked.strand here) (fun x => blocked.blockedOn x == some 0 && x.sy.blkt != 0 && decide (x.sy.blkt.toNat ≤ x.sch.blocked) && !x.laneBusy && !x.tr.sup && x.tr.tvec != 0) ∧
    someSat (faulty.strand here) (fun x => x.faults.length == 1 && x.sch.wait != .none && !x.sch.retired && !x.sch.hold && !x.tr.sup && x.tr.tvec != 0 &&
      x.redo.isEmpty && x.replay.isEmpty && x.lq.ops.isEmpty && x.lq.chain.isNone) := by decide +kernel

/-- A full queue whose consumer is its own pusher, which waits; `free`: nobody waits on it. -/
def tapered (reserve free : Bool) : State :=
  let s := queued (unit 3 [(5, 7)]) 2
  let s : State := { s with crews := s.crews.map (fun c =>
    { c with mg := writeDesc c.mg 0 { c.descAt 0 with producer := 0, consumer := 0, reserve }, pushers := [(0, here)], tapers := [(0, 1500)] }) }
  if free then s else withMe s (fun x => { x with sch := { x.sch with wait := .push ⟨gang, 0, 0⟩, offer := 7 } })
/-- The same with the count taken. -/
def counted (s : State) : State := s.modifyCrew gang 0 (fun k => { k with tapers := (0, 476) :: k.tapers.filter (fun e => e.1 != 0) })

theorem witness_taper :
    ([tapered false false, tapered true false, tapered false true].all (fun s => someSat (s.crewOf gang 0) (fun k =>
      decide (k.tapers.find? (fun e => e.1 == 0) = some (0, 1500)) && decide (k.pushers.find? (fun e => e.1 == 0) = some (0, here))))) ∧
    (counted (tapered false true)).taperWalk ⟨gang, 0, 0⟩ 16 ⟨gang, 0, 0⟩ true = false ∧
    (counted (tapered true false)).taperWalk ⟨gang, 0, 0⟩ 16 ⟨gang, 0, 0⟩ true = true ∧
    someSat ((tapered true false).crewOf gang 0) (fun k => (k.descAt (k.descriptor 0)).reserve) ∧
    someSat ((tapered true false).strand here) (fun y => !y.laneBusy && !y.tr.sup && y.tr.tvec != 0 && decide (y.sch.wait = .push ⟨gang, 0, 0⟩)) ∧
    (counted (tapered false false)).taperWalk ⟨gang, 0, 0⟩ 16 ⟨gang, 0, 0⟩ true ∧
    someSat ((tapered false false).crewOf gang 0) (fun k => !(k.descAt (k.descriptor 0)).reserve) ∧ ((tapered false false).strand here).isSome := by
  decide +kernel

/-! Accesses. -/

/-- A scalar load or store of 8 bytes at va 8 in flight, and what its home holds. -/
def served (kind : Kind) (st : Status) (leaf : Word64) : State :=
  let s := mapped (unit 3) (leafOf false)
  let s := s.setChip 0 { s.chip 0 with llc := [⟨0, 0, zeroGranule, 65536, leaf, false, 0, 0⟩] }
  { s with access := [{ flight s 1 kind true with va := 8, status := st }], nextId := 2 }
/-- The same with nothing held at the home. -/
def missed (kind : Kind) (st : Status) (leaf : Word64) : State :=
  let s := mapped (unit 3) leaf
  { s with access := [{ flight s 1 kind true with va := 8, status := st }], nextId := 2 }

theorem witness_homeAccess :
    ([served .load .issued (leafOf false), served .store .issued (leafOf false), served .store .issued 0x4000000000010003, missed .load .issued 0, missed .store .issued 0].all (fun s =>
      someSat (s.ready 1) (fun a => a.space == 0 && !aperture a.va && !Pol.acquire a.pol && !Pol.release a.pol && !s.pathHeld a && s.home a.va.toNat == 0 && (s.l1Serve a).isNone &&
        ((s.gauOf a.strand.core.die).find? (fun g => g.is a.gang (a.va.toNat / 256) a.asid)).isNone))) ∧
    ((served .load .issued (leafOf false)).chip 0).llc.all (fun l => l.granule == 8 / 256 && l.asid == 0 && !Leaf.isHost l.leaf && permits l.leaf needRead false && permits l.leaf needWrite false) ∧
    ((served .store .issued 0x4000000000010003).chip 0).llc.all (fun l => l.granule == 8 / 256 && l.asid == 0 && !Leaf.isHost l.leaf && !permits l.leaf needWrite false) ∧
    ((missed .load .issued 0).chip 0).llc = [] ∧ (missed .load .issued 0).tlbFind 0 0 8 = none := by decide +kernel

/-- A load in flight holds back an acquire fence; a release fence waits for it too. -/
theorem witness_acquireWaits : ((missed .load .issued 0).access.all (fun a => decide (a.strand = here) && a.isScalar && a.kind.ordered && !a.kind.reduces && !a.performed &&
      !decide (a.kind = .store))) ∧ (missed .load .issued 0).access ≠ [] ∧ (missed .load .issued 0).drained = false ∧
    (missed .load .issued 0).reachesHome 0 8 ∧ (missed .load .issued 0).walkersBusy 0 8 = false := by decide +kernel

/-- The home's walkers serve the accesses in this order. -/
def walkersOf (s : State) : State := s.setChip 0 { s.chip 0 with walks := s.access.map (fun a => a.n) }
/-- All 512 walkers of the home walk for accesses that came before number 900. -/
def crowded : State :=
  let s := missed .load .walking 0
  let last := s.access.map (fun a => { a with n := 900 })
  walkersOf { s with access := (List.range 512).map (fun n => { flight s (n + 2) .load true with va := 8, status := .walking }) ++ last, nextId := 901 }

theorem witness_walks :
    (missed .load .walking (leafOf false)).walk 0 8 = .leaf (leafOf false) false 0 0x6000 ∧ (missed .load .walking 0).walk 0 8 = .empty 0 0x6000 ∧
    ([walkersOf (missed .load .walking (leafOf false)), walkersOf (missed .load .walking 0)].all (fun s =>
      s.access.all (fun a => a.n == 1 && a.status == .walking && s.hasWalker a))) ∧
    (missed .store .reviving 0).access.all (fun a => a.n == 1 && a.status == .reviving) ∧
    (crowded.access.filter (fun a => a.n == 900)).all (fun a => a.status == .walking && !crowded.hasWalker a) := by decide +kernel

/-- One faulted scalar load; one lane load of one lane with its arrival due. -/
def refused : State := missed .load (.faulted 0x08) 0
def arriving : State :=
  let s := missed .load (.done 7) 0
  let o : LaneOp := { n := 5, run := 0, idx := 0, dst := some (.v 2), ty := .f32, act := 1#96, arrived := 0, faulted := 0, cause := 0, eaddr := 0, vals := [], reduce := false, row := false }
  { withMe s (fun x => { x with lq := { x.lq with ops := [o] } }) with access := s.access.map (fun a => { a with origin := .lane 5 0 }), nextId := 6 }

theorem witness_replies :
    someSat ((missed .load (.done 7) 0).strand here) (fun _ => true) ∧
    ((missed .load (.done 7) 0).access.all (fun a => decide (a.origin = .scalar 9 false) && decide (a.status = .done 7))) ∧
    someSat (refused.strand here) (fun x => refused.lockFault x == none && (refused.faultList x).map (fun f => f.n) == [1] && x.replay.isEmpty && !x.tr.sup &&
      refused.access.all (fun b => b.n == 1 && b.isFaulted)) ∧
    (arriving.access.all (fun a => decide (a.origin = .lane 5 0) && decide (a.status = .done 7) && arriving.replyFrom a == 0)) ∧
    someSat (arriving.strand here) (fun x => x.lq.ops.all (fun o => o.n == 5 && o.faulted == 0 && o.act &&& ~~~(o.arrived ||| (1#96 <<< 0)) == 0)) ∧
    ((missed (.prefetch true) .issued 0).access.find? (fun b => b.n == 1)).isSome := by decide +kernel

/-- The gang atomic unit holds granule 0. -/
def gauHeld (s : State) : State := s.setGau 0 [⟨gang, 0, 0, zeroGranule, List.replicate 256 false⟩]
/-- An access to G offset 8 of peer 0. -/
def toPeer (kind : Kind) : State :=
  let s := unit 3
  { s with access := [{ flight s 1 kind true with space := 6, va := 8 }], nextId := 2 }
/-- The policies of an atomic of device scope and of gang scope. -/
def atScope (s : State) (pol : Word32) : State := { s with access := s.access.map (fun a => { a with pol }) }

theorem witness_atomics :
    (let p : Word32 := 12
     Pol.scope p = 3 ∧ Pol.acquire p = false ∧ Pol.release p = false ∧
      someSat ((atScope (served (.atomic 0 true) .issued (leafOf false)) p).ready 1) (fun a => Pol.scope a.pol == 3 &&
        !(atScope (served (.atomic 0 true) .issued (leafOf false)) p).pathHeld a) ∧ Leaf.isHost (leafOf false) = false ∧
      permits (leafOf false) needBoth false ∧
      ((atScope (served (.atomic 0 true) .issued (leafOf false)) p).gauOf 0).all (fun k => !k.is gang 0 0)) ∧
    (let p : Word32 := 0
     Pol.scope p < 3 ∧ someSat ((atScope (gauHeld (served .cas .issued (leafOf false))) p).ready 1) (fun a =>
      !(atScope (gauHeld (served .cas .issued (leafOf false))) p).pathHeld a &&
      (((atScope (gauHeld (served .cas .issued (leafOf false))) p).gauOf a.strand.core.die).find? (fun k => k.is a.gang (a.va.toNat / 256) a.asid)).isSome)) ∧
    ([toPeer .cas, toPeer .load, toPeer .store].all (fun s => someSat (s.ready 1) (fun a => a.space == 6 && a.isScalar && !Pol.acquire a.pol && !Pol.release a.pol &&
      s.access.all (fun b => b.n != 1 || b == a) && someSat (s.crewOf a.gang (wordBits a.va 23 18)) (fun c => !s.wakingAt c 1 (wordBits a.va 17 0) a.size)))) ∧
    ((missed .operation .issued 0).access.find? (fun b => b.n == 1 && b.kind == .operation && b.status == .issued)).isSome ∧
    (missed .operation .issued 0).nearCovers 0 0 (2 ^ 64) = false := by
  repeat' apply And.intro
  all_goals decide +kernel

/-! Launch. -/

/-- An enabled launch list of 16 entries at va 0 whose head is 0 and whose entry 0 names the block at va 0x1000 in ASID 0; the block holds these
dwords. -/
def listed (first : Nat) (ws : List Nat) : State :=
  let s := homed (mapped (unit 3) (leafOf false)) [(0, leBytes 8 1 ++ leBytes 8 0 ++ List.replicate 48 0 ++ leBytes 8 first), (16, ws.flatMap (leBytes 8))]
  { s with host := { s.host with llBase := 0x8000000000000000 }, fields := [] }
/-- A good block: class 2, one gang of one core and one strand, ASID 0. -/
def goodBlock : List Nat := [1 + 2 * 2 ^ 32, 0x2000, 0x2000, 0, 0x10001, 0, 0, 0, 0, 0]

theorem witness_launchIntake :
    ([listed 0x1001 goodBlock, listed 0x1001 ((2 + 2 * 2 ^ 32) :: goodBlock.drop 1)].all (fun s => s.ddb.ready && decide (s.launchList = some (0, 16)) &&
      s.listReady.2 && decide ((s.headEntry 0 16).2 = some (0x40, 0x1001, 0x1000, 0)) && !s.knownField 0x1000 0 && (s.pageReady 0 0x1000 needBoth).2)) ∧
    ({ listed 0x1001 goodBlock with fields := [{ loadedField 3 with block := 0x1000 }] } : State).knownField 0x1000 0 ∧
    someSat ((listed 0x1001 goodBlock).readBlock 0x1000 0).2 (fun ws => ((listed 0x1001 goodBlock).refusal ws (fieldOfBlock 0x1000 0 ws)).isNone) ∧
    (let s := listed 0x1001 ((2 + 2 * 2 ^ 32) :: goodBlock.drop 1)
     someSat (s.readBlock 0x1000 0).2 (fun ws => decide (s.refusal ws (fieldOfBlock 0x1000 0 ws) = some 1)) ∧ (s.refuse 0x1000 0 1).2) := by
  decide +kernel

/-- An entry that names a block beyond the plain addresses, one whose block cannot be read, and one whose refusal cannot be written. -/
def misread (entry : Nat) (leaf : Word64) : State :=
  let s := (listed 0x1001 []).entryWrite 0 0x6000 leaf
  let list := leBytes 8 1 ++ leBytes 8 0 ++ List.replicate 48 0 ++ leBytes 8 entry
  s.setChip 0 { s.chip 0 with llc := [⟨0, 0, patch zeroGranule 0 list, 65536, leafOf false, false, 0, 0⟩, ⟨16, 0, zeroGranule, 65536, leaf, false, 0, 0⟩] }

theorem witness_launchDrops :
    (let s := misread 0x0200000000000001 (leafOf false)
     s.ddb.ready ∧ s.listReady.2 ∧ someSat (s.headEntry 0 16).2 (fun e => !blockPlain e.2.2.1)) ∧
    (let s := misread 0x1001 0x4000000000010001
     s.listReady.2 ∧ decide ((s.headEntry 0 16).2 = some (0x40, 0x1001, 0x1000, 0)) ∧ !s.knownField 0x1000 0 ∧ blockPlain 0x1000 ∧ (s.pageReady 0 0x1000 needBoth).2 ∧
      (s.readBlock 0x1000 0).2.isNone) ∧
    (let s := misread 0x1001 0x4000000000010003
     decide ((s.headEntry 0 16).2 = some (0x40, 0x1001, 0x1000, 0)) ∧ (s.pageReady 0 0x1000 needBoth).2 ∧
      someSat (s.readBlock 0x1000 0).2 (fun ws => (s.refusal ws (fieldOfBlock 0x1000 0 ws)).isSome) ∧ !(s.refuse 0x1000 0 1).2) := by decide +kernel

/-- A field of class k with two gangs and one strand a core, alone in the window, its block at va 0x1000. -/
def offered (k : BitVec 2) : State :=
  let s := homed (mapped (unit 3) (leafOf false)) [(16, [])]
  { s with fields := [{ loadedField 3 with block := 0x1000, cls := k, fx := 2, window := true, claimed := false, known := [], go := false }] }

theorem witness_claims : ([offered 2, offered 1, offered 0].all (fun s => s.ddb.ready && s.liveDies.contains 0 && s.fields.all (fun f => f.window && f.saved.isEmpty &&
      !f.claimed && !f.go && f.known.isEmpty && f.ended.isNone && someSat (s.originFor f 0) (fun o => (rectangle 0 o.1 o.2 f.lw f.lh).all (fun c => (s.core c).waking.isEmpty)) && (s.blockReady f).2 &&
      decide ((s.takeTicket f).2 = some 0) && decide (0 + 1 < f.fx * f.fy) && s.gangs.all (fun j => j.id != ⟨0x1000, 0, 0⟩) &&
      s.crews.all (fun c => c.gang != ⟨0x1000, 0, 0⟩)))) = true := by decide +kernel

/-- The gang of `unit` with its strand retired. -/
def retired : State := withMe (unit 3) (fun x => x.withSched (fun k => { k with retired := true }))
/-- A gang of the loaded field that is being drained, with no strand left; the host waits for it, or for it and another one. A crew with empty
regions has a record to write. -/
def draining (crew others : Bool) : State :=
  let s := unit 3
  let k (id : GangId) : List Gang := s.gangs.map (fun k => { k with id, draining := true })
  { s with me := { s.me with live := false }, crews := if crew then s.crews.map (fun c => { c with g := 0, w := 0, a := 0, c := 0 }) else []
           fields := s.fields.map (fun f => { f with tvec := 0 }), gangs := k gang ++ (if others then k ⟨0, 0, 1⟩ else []), host := { s.host with draining := if others then [gang, ⟨0, 0, 1⟩] else [gang] } }
/-- Whether the drain may end: the record's words, and whether their pages are ready and the writes succeed. -/
def drainable (s : State) (ok : Bool) : Bool :=
  someSat (s.gangOf gang) (fun k => someSat (s.fieldOf gang) (fun f => k.draining && !k.recorded && !k.ending && s.drainedGang gang &&
    (match s.saveArea f with
     | (u, .base area) =>
       let v := ((u.strands.filter (fun x => x.who.gang == gang)).foldl (fun (u : State) x => u.leaveWait x) u).gauWriteBack k.die true (fun l => l.gang == gang)
       let words := (v.crews.filter (fun c => c.gang == gang)).flatMap (fun c => v.crewBlock c area k.nstr (2 ^ k.lw * 2 ^ k.lh))
       let p := v.pagesReady f.asid needWrite (words.map (fun p => p.1 / 65536 * 65536)).eraseDups
       p.2 && (({ p.1 with fresh := p.1.fresh + 1 } : State).homeSetAll f.asid true words).2 == ok
     | _ => false)))
/-- A drain whose control block cannot be read. -/
def blind : State :=
  let s := mapped (draining true false) 0
  { s with fields := s.fields.map (fun f => { f with tvec := 64 }) }
/-- The gang saved. -/
def saved : State :=
  let s := mapped (draining false false) 0
  { s with gangs := [], fields := s.fields.map (fun f => { f with saved := s.gangs.map (fun k => ⟨k, [], [], [], [], [], [], []⟩) }) }

theorem witness_gangEnds : someSat (retired.gangOf gang) (fun k => !k.draining && k.fatal.isNone) ∧ gang ≠ processors ∧ (retired.strands.all (fun x => x.sch.retired)) ∧ retired.gangQuiet gang ∧
    (retired.pageReady 0 0x38 needBoth).2 ∧ drainable (draining false false) true ∧ drainable (draining false true) true ∧
    (draining false true).gangs.any (fun j => j.id != gang && (draining false true).host.draining.contains j.id && !j.recorded) ∧
    (draining false false).host.draining = [gang] ∧ drainable (draining true false) false ∧
    someSat (saved.fieldOf gang) (fun f => f.cls != 0 && f.lowestSaved gang && f.saved.length == 1 && f.saved.all (fun v => v.gang.id == gang &&
      (saved.savedReady f v).2 && ((saved.savedReady f v).1.originSaved f v 0).isSome &&
      (match (saved.savedReady f v).1.saveArea f with
       | (u, .base area) => (match (u.readCrews v area [] [] v.crews).2 with | .ok _ => true | .error _ => false)
       | _ => false))) ∧ saved.liveDies.contains 0 ∧ saved.admitting.isNone ∧
    someSat (blind.gangOf gang) (fun k => k.draining && !k.recorded && !k.ending && blind.drainedGang gang) ∧
    someSat (blind.fieldOf gang) (fun f => match (blind.saveArea f).2 with | .fault _ => true | _ => false) := by
  repeat' apply And.intro
  all_goals decide +kernel

/-! Engines. -/

/-- The state an instruction gives. -/
def after (i : Instr) (s : State) : State := match exec i s with | .next t => t | _ => s
/-- A `cpy` of two rows of 64 bytes from va 0 to G is queued, or a gather of them by the two indices at va 0x80: their pages are held, or unmapped. -/
def copying (gather held : Bool) : State :=
  let s := unit 1 [(20, 0x100), (21, 0), (22, 0x8000000002000040), (23, 0x2000004000000040), (30, 0x100), (31, 0), (32, 0x80), (33, 0x4000000002000040),
    (34, 0x2000000100000040)]
  after (if gather then .cpyg 30 6 3 else .cpy 20 6 1 0) (if held then homed (mapped s (leafOf false)) [(0, [])] else mapped s 0)
/-- What the next chunk of the first copy gives. -/
def chunkOf (s : State) : Got :=
  match (s.core ⟨0, 0, 0⟩).copies with
  | [] => .wait
  | k :: _ =>
    let cp := copyOf (k.kind == 1) k.lay k.regs
    if k.kind = 1 then
      match s.rowMoves k.agent cp [] (cp.chunkRows k.chunk) with
      | (v, .list ms) => (v.moveChunk k.old true k.agent cp.ssp cp.dsp ms).2.2
      | _ => .wait
    else (s.moveChunk [] false k.agent cp.ssp cp.dsp (cp.elementMoves k.chunk)).2.2
def isBytes (g : Got) : Bool := match g with | .bytes _ => true | _ => false
def isFault (g : Got) : Bool := match g with | .fault _ _ => true | _ => false

theorem witness_copies : ([copying false true, copying true true, copying false false].all (fun s => someSat ((s.core ⟨0, 0, 0⟩).copies.find? (fun j => j.n == 1 && j.kind != 2))
      (fun k => s.copyReady ⟨0, 0, 0⟩ k && !(s.gangOf k.gang).any (fun x => x.ending)))) ∧
    isBytes (chunkOf (copying false true)) ∧ isBytes (chunkOf (copying true true)) ∧ isFault (chunkOf (copying false false)) ∧
    ((copying true true).core ⟨0, 0, 0⟩).copies.all (fun k => k.kind == 1) := by decide +kernel

/-- A command on core (0, 0). -/
def onCore (s : State) (f : Core → Core) : State := s.setCore ⟨0, 0, 0⟩ (f (s.core ⟨0, 0, 0⟩))
/-- An `lcopy` of one lane from va 0 to G offset 0: its page is held, or unmapped. -/
def laneCopying (held : Bool) : State :=
  let s := if held then homed (mapped (unit 1) (leafOf false)) [(0, [])] else mapped (unit 1) 0
  onCore s (fun c => { c with copies := [{ n := 7, strand := here, gang, peer := 0, kind := 2, tag := 0, lay := 0, space := 1, regs := []
                                           lanes := [(0, 0, 0, 32)], pol := 0, asid := 0, sup := false, chunk := 0, run := 0, idx := 0, old := [], begun := false, bad := [], state := .running }] })

theorem witness_laneCopies : ([laneCopying true, laneCopying false].all (fun s => someSat ((s.core ⟨0, 0, 0⟩).copies.find? (fun j => j.n == 7 && j.kind == 2))
      (fun k => s.copyReady ⟨0, 0, 0⟩ k))) ∧
    someSat ((laneCopying true).core ⟨0, 0, 0⟩).copies.head? (fun k => ((laneCopying true).copyLanes k.agent 1 [] [] k.lanes).2.1.isEmpty &&
      ((laneCopying true).copyLanes k.agent 1 [] [] k.lanes).2.2.isEmpty) ∧
    someSat ((laneCopying false).core ⟨0, 0, 0⟩).copies.head? (fun k => !((laneCopying false).copyLanes k.agent 1 [] [] k.lanes).2.1.isEmpty) := by decide +kernel

/-- A matrix command at the head of the queue, and another crew's strand that waits for the engine. -/
def queuedMatrix (op : DmeOp) (regs : List Word64) (step : Nat) : State :=
  onCore matrix (fun c => { c with dme := { c.dme with queue := [{ n := 7, strand := here, gang, peer := 0, op, lay := 0, regs, pol := 0, asid := 0, sup := false, step, begun := false, state := .queued }]
                                                       waiting := [⟨(⟨1, 1, 1⟩, 0), ⟨⟨0, 0, 0⟩, 9⟩⟩] } })

theorem witness_matrixCommands : ([queuedMatrix .mlds [0, 0x1414] 0, queuedMatrix .mswap [] 0, queuedMatrix .cclr [0] 0, queuedMatrix .mloop (matrix.regsFrom 20 4) 0,
      queuedMatrix .mloop [0x200, 0x400, 0x200, 2] 0].all (fun s =>
      (s.crewOf gang 0).isSome && someSat (s.core ⟨0, 0, 0⟩).dme.queue.head? (fun k => s.matrixReady k) && (s.core ⟨0, 0, 0⟩).dme.granted.isNone &&
      someSat (s.core ⟨0, 0, 0⟩).dme.owner (fun o => s.strands.all (fun x => x.crew != o || x.count 4 == 0)) &&
      ((s.core ⟨0, 0, 0⟩).dme.waiting.head?).isSome)) = true := by decide +kernel

/-- A `cstore` of five elements to va 0: its page is mapped, or not. -/
def storing (leaf : Word64) : State := mapped (queuedMatrix .cstore [0, 0x1100000400, 0, 4] 0) leaf
def storeRun (s : State) : Got :=
  match (s.core ⟨0, 0, 0⟩).dme.queue, s.crewOf gang 0 with
  | k :: _, some c => let p := storeOf k.regs; (s.storeRows k.agent c p (p.tile k.lay) 0 0 ((p.tile k.lay).chunkRows k.step)).2.2.2
  | _, _ => .wait

theorem witness_cstore : ([leafOf false, 0].all (fun l => someSat (storing l).crews.head? (fun c => !(storing l).bankWaits c (storeOf [0, 0x1100000400, 0, 4]).source) &&
      someSat ((storing l).core ⟨0, 0, 0⟩).dme.queue.head? (fun k => (storing l).matrixReady k && !(storing l).copyHeld k.strand &&
        !((storing l).gangOf k.gang).any (fun x => x.ending)))) ∧
    isBytes (storeRun (storing (leafOf false))) ∧ isFault (storeRun (storing 0)) := by decide +kernel

/-- No bank of the commands wakes. -/
theorem witness_banksAwake : [queuedMatrix .mlds [0, 0x1414] 0, queuedMatrix .cclr [0] 0, queuedMatrix .mloop (matrix.regsFrom 20 4) 0].all (fun s =>
    someSat (s.crewOf gang 0) (fun c => (s.core ⟨0, 0, 0⟩).dme.queue.all (fun k => !s.bankWaits c k.parts && !s.bankWaits c ((loopOf k.regs).parts 0x1414 0)))) ∧
    someSat (analog.crewOf gang 0) (fun c => !analog.bankWaits c [(3, 0xFF0, 512)] && !analog.bankWaits c [(3, 0, 512), (5, 0, 4096)]) := by decide +kernel

/-- An analog command at the head of array 0's queue; `valid`: the array is calibrated. -/
def queuedAnalog (op : AnaOp) (regs : List Word64) (row : Nat) (valid : Bool) : State :=
  onCore analog (fun c => { c with
    analog := [{ n := 7, strand := here, gang, peer := 0, op, arr := 0, d := 9, regs, sup := false, row, state := .queued }]
    arrays := c.arrays.set 0 { c.arrays[0] with valid } })

theorem witness_analogCommands : ([queuedAnalog .xprog [0x81FE000100000FF0] 0 false, queuedAnalog .xprog [0x81FE000100000FF0] 511 false, queuedAnalog .xmvm (analog.regsFrom 20 3) 0 false,
      queuedAnalog .xmvm (analog.regsFrom 20 3) 0 true, queuedAnalog .xtrim [] 0 false, queuedAnalog .xcal [515] 0 false].all (fun s =>
      (s.analogHead ⟨0, 0, 0⟩ 0).isSome && (s.crewOf gang 0).isSome)) = true := by decide +kernel

/-- A near-memory command of the strand at a stage, and the operation that it counts as. -/
def queuedNear (leaf : Word64) (op : NearOp) (regs : List Word64) (f : NearCmd → NearCmd) : State :=
  withMe (onCore (mapped (unit 3) leaf) (fun c => { c with near := [f
    { n := 7, strand := here, gang, op, regs, pol := 0, asid := 0, sup := false, after := 0, stage := .queued, base := 0, pages := 0, program := []
      leaves := [], pieces := [], waves := [], moves := [], granules := [], counted := [], flags := 0 }] })) (fun x => { x with ops := [⟨7, 6, false, 0⟩] })
/-- Two commands wait, of which the second may not begin. -/
def nearBehind : State :=
  let s := queuedNear (leafOf false) .nrowZero [0, 0, 1] id
  withMe (onCore s (fun c => { c with near := c.near ++ c.near.map (fun k => { k with n := 8 }) })) (fun x => { x with ops := x.ops ++ [⟨8, 6, false, 0⟩] })
/-- The pages of a command's footprint agree. -/
def agreed (s : State) : Option FootFault :=
  match (s.core ⟨0, 0, 0⟩).near with | k :: _ => (s.nearPages k.asid k.sup [] none (s.allPages (footprint k 0 0))).2.2 | [] => none

theorem witness_nearCommands :
    ([(leafOf false, true), (0, false)].all (fun p =>
      let s := queuedNear p.1 .nrowZero [0, 0, 1] id
      ((s.core ⟨0, 0, 0⟩).near.all (fun k => s.nearReady k && decide (s.nearBusy k.asid (footprint k 0 0) = none))) && s.holdsOp 7 && (agreed s).isNone == p.2)) ∧
    ((queuedNear (leafOf false) .nlaunch [0, 0, 1] (fun k => { k with stage := .running, pieces := [⟨0, 0, 16, 0⟩] })).core ⟨0, 0, 0⟩).near.all (fun k => k.pieces != []) ∧
    ((queuedNear (leafOf false) .nred [0, 0x1000, 256, 0] (fun k => { k with stage := .running, counted := [0] })).core ⟨0, 0, 0⟩).near.all (fun k => k.counted == [0]) ∧
    ((nearBehind.core ⟨0, 0, 0⟩).near.all (fun k => nearBehind.nearReady k == (k.n == 7))) ∧
    (wordBits (([0, 0, 1] : List Word64).getD 2 0) 15 0 = 1 ∧ (queuedNear (leafOf false) .nrowZero [0, 0, 1] id).ddb.chips = [0]) ∧
    ([(NearStage.checking, NearOp.nrowZero), (.agreed, .nrowZero), (.agreed, .nlaunch), (.running, .nlaunch), (.running, .nrowZero), (.running, .nred)].all (fun p =>
      (((queuedNear (leafOf false) p.2 [0, 0, 1] (fun k => { k with stage := p.1, leaves := [(0, 0, leafOf false)] })).core ⟨0, 0, 0⟩).near.all (fun k =>
        k.n == 7 && k.stage == p.1 && k.op == p.2 && !k.counted.contains 0)))) ∧
    ((queuedNear (leafOf false) .nrowZero [0, 0, 1] (fun k => { k with stage := .running, moves := [⟨0, 65536, none, 1024⟩, ⟨0, 131072, some 65536, 1024⟩] })).core ⟨0, 0, 0⟩).near.all
      (fun k => k.moves.length == 2) ∧
    ((queuedNear (leafOf false) .nred [0, 0x1000, 256, 0] (fun k => { k with stage := .running, granules := [(0, 0)] })).core ⟨0, 0, 0⟩).near.all
      (fun k => k.granules.any (fun g => g.1 == 0)) := by decide +kernel

/-! Boot and the host. -/

/-- The Sconce at a stage, every die released, element 3 held or nothing. -/
def atStage (stage : Nat) (held : List Nat) : State := { State.reset with sconce := { State.reset.sconce with stage, held, released := List.range 30 } }

theorem witness_boot : State.reset.sconce.stage = 0 ∧ goodImage [] 29 = none ∧ (atStage 4 []).sconce.stage = 4 ∧ (atStage 4 []).sconce.held = [] ∧
    (atStage 4 []).sconce.leftOut = [] ∧ (∀ i, i < 30 → i ∈ (atStage 4 []).sconce.released) ∧ 29 ∉ State.reset.sconce.released := by decide +kernel

/-- A mailbox command runs: its dword, with element 3 held, and the buffer begins with a length. -/
def commanded (command : Word32) (stage length : Nat) : State :=
  let s := atStage stage [3]
  { s with sconce := { s.sconce with command, status := 0, buffer := Mem.writeBytes [] 0 (leBytes 4 length) } }

theorem witness_mailbox : (commanded 0x301 4 2).sconce.running 1 ∧ (commanded 0x301 4 2).sconce.operand = 3 ∧ 3 ∈ (commanded 0x301 4 2).sconce.held ∧
    (commanded 0x301 4 2).sconce.chunkLength = 2 ∧ 2 ≤ chunkSpace ∧ chunkSpace < (commanded 0x301 4 0xF00).sconce.chunkLength ∧
    (commanded 0x201 4 2).sconce.operand ∉ (commanded 0x201 4 2).sconce.held ∧ (commanded 0x302 4 2).sconce.running 2 ∧
    (commanded 0x303 4 2).sconce.running 3 ∧ (commanded 0x4504 4 2).sconce.running 4 ∧ (commanded 0x4504 4 2).sconce.operand % 64 = 5 ∧
    (commanded 0x4504 4 2).sconce.operand.testBit 6 ∧ (commanded 0x4504 1 2).sconce.stage < 4 ∧
    (∀ q ∈ [1, 2, 3, 4], (atStage 4 [3]).sconce.running q = false) := by decide +kernel

/-- What the public key accepts is the implementation's: where it accepts an image with a signature, a flash that holds them for the Sconce and the
Ignition die boots, and a host that supplies them completes an element; where it does not, the Sconce asks for an image. -/
theorem witness_images : ∀ image signature : List Byte,
    (imagePasses image signature → goodImage [⟨29, image, signature⟩, ⟨28, image, signature⟩] 29 = some image ∧
      goodImage [⟨29, image, signature⟩, ⟨28, image, signature⟩] 28 = some image) ∧
    (imagePasses image signature = false → goodImage [⟨29, image, signature⟩] 29 = none) := by
  intro image signature
  constructor <;> intro h <;> simp [goodImage, List.find?, h]

/-- Whatever bytes a host has supplied for the held element 3, IMAGE_DONE runs on them, and they pass or they do not. -/
theorem witness_supplied : ∀ b : List Byte,
    let c : Sconce := { (commanded 0x302 4 0).sconce with images := [(3, b)] }
    c.running 2 ∧ c.operand = 3 ∧ 3 ∈ c.held ∧ (c.supplied 3).1 ++ (c.supplied 3).2 = b := by
  intro b
  refine ⟨?_, ?_, ?_, ?_⟩
  · show (commanded 0x302 4 0).sconce.running 2 = true
    decide +kernel
  · show (commanded 0x302 4 0).sconce.operand = 3
    decide +kernel
  · show 3 ∈ (commanded 0x302 4 0).sconce.held
    decide +kernel
  · show List.take _ b ++ List.drop _ b = b
    exact List.take_append_drop _ _

/-- The host has placed an entry in a ring of 16 at address 0 of its memory. -/
def asked (s : State) (op : Nat) (a0 a1 a2 : Word64) : State :=
  { s with host := { s.host with hcrSize := 4, hcrTail := 1, mem := Mem.writeBytes [] 0 ([op, a0.toNat, a1.toNat, a2.toNat].flatMap (leBytes 8)) } }
def headIs (s : State) (op : Nat) (a0 a1 a2 : Word64) : Bool := decide (s.ringHead = some (op, a0, a1, a2))

/-- Page 0 lies in host memory, and its ASID has a PASID. -/
def hostPage : State :=
  let s := mapped (unit 3) 0x800000000000000F
  { s with host := { s.host with pasid := [(0, 0x80000000)] } }
/-- A field with a save area: its control block at va 64 holds 0x4000. -/
def savable : State :=
  let s := homed (mapped (unit 3) (leafOf false)) [(0, List.replicate 64 0 ++ leBytes 8 0x4000)]
  { s with fields := s.fields.map (fun f => { f with tvec := 64 }) }
/-- What the field of block 0 and its gangs of an index are, and what the read of its save area says. -/
def preEmpts (s : State) (i n : Nat) (r : Option Bool) : Bool :=
  someSat (s.fields.find? (fun f => f.block == 0 && f.asid == 0)) (fun f => (s.requested f i).length == n && f.cls == 2 && decide ((s.noSaveArea f).2 = r))

theorem witness_hostRing :
    headIs (asked savable 1 0 0 0) 1 0 0 0 ∧ preEmpts (asked savable 1 0 0 0) 0 1 (some false) ∧
    preEmpts (asked savable 1 0 0 5) 5 0 (some false) ∧
    (let s := { asked savable 1 0 0 0 with fields := savable.fields.map (fun f => { f with tvec := 0 }) }
     headIs s 1 0 0 0 ∧ preEmpts s 0 1 (some true)) ∧
    (let s := { asked hostPage 1 0 0 0 with fields := savable.fields }
     headIs s 1 0 0 0 ∧ preEmpts s 0 1 none) ∧
    (headIs (asked savable 1 5 0 0) 1 5 0 0 ∧ (savable.fields.find? (fun f => f.block == 5 && f.asid == 0)).isNone) ∧
    (headIs (asked (mapped (unit 3) 0) 2 0 0 0) 2 0 0 0 ∧ (mapped (unit 3) 0).knownField 0 0 ∧ ((asked (mapped (unit 3) 0) 2 0 0 0).pageReady 0 0 needBoth).2) ∧
    ((asked hostPage 2 0 0 0).pageReady 0 0 needBoth).2 = false ∧ (mapped (unit 3) 0).knownField 5 0 = false := by
  repeat' apply And.intro
  all_goals decide +kernel

theorem witness_hostLeaves :
    headIs (asked (mapped (unit 3) (leafOf true)) 3 0x60 9 0) 3 0x60 9 0 ∧
    (0 ∈ (mapped (unit 3) 0).ddb.chips ∧ wordBits 0x60 27 4 < framesPerChip ∧ 4096 * wordBits 0x60 27 4 + 8 * wordBits 0x60 36 28 = 0x6000) ∧
    (Leaf.kind ((mapped (unit 3) (leafOf true)).entryRead 0 0x6000) = 1 ∧ Leaf.disc ((mapped (unit 3) (leafOf true)).entryRead 0 0x6000)) ∧
    (Leaf.disc ((mapped (unit 3) (leafOf false)).entryRead 0 0x6000) = false) ∧
    headIs (asked (mapped (unit 3) 0) 4 0 0x100000000 0) 4 0 0x100000000 0 ∧ wordBits 0x100000000 63 32 = 1 ∧
    (asked (mapped (unit 3) 0) 4 0 0x100000000 0).nearCovers 0 0 65536 = false ∧ (asked (mapped (unit 3) 0) 4 0 0 0).nearCovers 0 0 (2 ^ 64) = false ∧
    (asked (queuedNear (leafOf false) .nrowZero [0, 0, 1] (fun k => { k with stage := .checking })) 4 0 0x100000000 0).nearCovers 0 0 65536 ∧
    headIs (asked (mapped (unit 3) 0) 9 0 0 0) 9 0 0 0 ∧ (unit 3).ringHead = none ∧
    ({ mapped (unit 3) 0 with sconce := { State.reset.sconce with released := [8] } } : State).liveEndpoint (8 + 0) := by
  repeat' apply And.intro
  all_goals decide +kernel

theorem witness_hostLink :
    ((missed .load .host (leafOf false)).access.all (fun a => a.n == 1 && a.status == .host && atsPermits ⟨true, 0, true, true, true⟩ a.hostNeed &&
      !(missed .load .host (leafOf false)).host.pageRequests.contains a.group)) ∧
    (missed .load .host (leafOf false)).walk 0 8 = .leaf (leafOf false) false 0 0x6000 ∧ (missed .load .host 0).host.pageRequests.length < 512 ∧
    ((missed .load .pageRequest 0).access.find? (fun b => b.n == 1 && b.status == .pageRequest)).isSome ∧
    (List.replicate 512 ((9, 0) : BitVec 16 × Nat)).length = 512 ∧ ((0, 0) : BitVec 16 × Nat) ∉ List.replicate 512 ((9, 0) : BitVec 16 × Nat) ∧
    (let s := ((((unit 3).setBias 1 ⟨0, 0, true, false, 1, false, 0⟩).setBias 2 ⟨0, 0, true, true, 1, true, 2⟩).setBias 3 ⟨0, 0, true, true, 1, false, 1⟩).setBias 4
       ⟨0, 0, false, true, 1, true, 1⟩
     (s.biasEntry 0).busy = false ∧ (s.biasEntry 0).dev = false ∧ (s.biasEntry 1).dev ∧ (s.biasEntry 1).busy = false ∧ (s.biasEntry 2).busy ∧
     (s.biasEntry 2).toDev ∧ (s.biasEntry 2).dev ∧ (s.biasEntry 3).busy ∧ (s.biasEntry 3).toDev = false ∧ (s.biasEntry 3).dev ∧ (s.biasEntry 4).busy ∧
     (s.biasEntry 4).toDev ∧ (s.biasEntry 4).dev = false) ∧
    wordBits (unit 3).host.pwrlim 15 0 = 4400 := by decide +kernel

/-! Interposer and fabric. -/

/-- A flit of a class, a try of sequence number 0 or 1 on a colour, and pair (0, 1) with a number of flits sent of which the last one failed its CRC 15 times
on colour 0. -/
def flitOf (cls : FlitClass) : TxFlit := ⟨cls, 2, .pair, .payload 77⟩
def tryOf (seq : Nat) (colour : Bool) : FlitTry := ⟨colour, false, seq, false⟩
def sentPair (f : Pair → Pair) : State := { unit 3 with pairs := [((0, 1), f { Pair.reset with sent := 1, unacked := [(0, flitOf .reply)], tries := [(0, false, false, 15)] })] }

theorem witness_interposer : pairExists 0 1 ∧
    (let s := unit 3
     let p := s.pair 0 1
     let q : Pair := { p with tx := p.tx.offer [flitOf .request, flitOf .reply] }
     let v := s.setPair 0 1 q
     p.expected = 0 ∧ p.early = [] ∧ p.stopped = false ∧ prrMode p.prr = 0 ∧ p.settled ∧ p.cutOff = false ∧ v.usable 0 1 (tryOf 0 true) ∧ v.legTurn 0 1 false ∧
     q.tx.next q.mayGo = some (flitOf .reply) ∧ p.sent = 0 ∧ s.liveEndpoint 0 = false) ∧
    (let s := (unit 3).setPair 0 1 { Pair.reset with prr := 0x203 }
     let p := s.pair 0 1
     let q : Pair := { p with tx := p.tx.offer [flitOf .request, flitOf .reply] }
     let v := s.setPair 0 1 q
     prrMode p.prr = 3 ∧ prrVia p.prr = 2 ∧ v.legTurn 0 2 true ∧ v.legTurn 2 1 true ∧ v.usable 0 1 (tryOf 0 true) ∧ q.tx.next q.mayGo = some (flitOf .reply)) ∧
    (let s := sentPair id
     s.usable 0 1 (tryOf 0 false) ∧ (s.pair 0 1).settled = false ∧ (s.pair 0 1).onRelay = false ∧
     (s.pair 0 1).unacked.find? (fun x => x.1 == 0) = some (0, flitOf .reply) ∧
     (s.pair 0 1).tries.find? (fun e => e.1 == 0 && (e.2.1, e.2.2.1) == (false, false)) = some (0, false, false, 15)) ∧
    (sentPair (fun p => { p with tries := [(0, false, false, 3)], expected := 5 })).usable 0 1 (tryOf 0 false) ∧
    (sentPair (fun p => { p with prr := 0x40000001 })).usable 0 1 (tryOf 0 false) = false ∧
    ((sentPair (fun p => { p with stopped := true })).pair 0 1).unacked.all (fun x => x.1 != 1) ∧
    ((sentPair (fun p => { p with stopped := true, unacked := [] })).pair 0 1).settled ∧
    ((sentPair (fun p => { p with prr := 0xC0000001 })).pair 0 1).cutOff ∧ (unit 3).relayOk 0 1 0x203 = false ∧
    (let s := { unit 3 with sconce := { (unit 3).sconce with released := [0, 2] } }
     State.relayOk s 0 1 0x203 ∧ State.liveEndpoint s 0) ∧ prrMode 0x203 = 3 ∧ prrMode 1 ≠ 3 ∧
    (unit 3).bankIsFree ⟨0, 1, 0⟩ .g 2 ∧ ((unit 3).core ⟨0, 1, 0⟩).gated = [] ∧ ((unit 3).core ⟨0, 1, 0⟩).waking = [] ∧
    (Buf.g, 2) ∈ ((unit 3).setCore ⟨0, 1, 0⟩ { Core.reset with gated := [(.g, 2)] } |>.core ⟨0, 1, 0⟩).gated ∧
    0 ∈ (mapped (unit 3) 0).ddb.chips ∧ 3 ∉ ((mapped (unit 3) 0).chip 0).gatedWays ∧ 3 ∉ ((mapped (unit 3) 0).chip 0).wakingWays ∧
    3 ∈ (((unit 3).setChip 0 { Chiplet.reset with gatedWays := [3] }).chip 0).gatedWays := by
  repeat' apply And.intro
  all_goals decide +kernel

/-- Management waits behind a request until 63 other flits have gone; a flit that may not go is passed over. -/
theorem witness_transmitter : (⟨[flitOf .management, flitOf .request], [], 62⟩ : Transmitter).next (fun _ => true) = some (flitOf .request) ∧
    (⟨[flitOf .management, flitOf .request], [], 63⟩ : Transmitter).next (fun _ => true) = some (flitOf .management) ∧
    (⟨[flitOf .management, flitOf .request], [], 62⟩ : Transmitter).next (fun f => f.cls == .management) = some (flitOf .management) := by decide +kernel

/-- The check value of CRC-64/ECMA-182: the CRC of the characters 123456789. -/
theorem test_crc64 : crc64 [0x31, 0x32, 0x33, 0x34, 0x35, 0x36, 0x37, 0x38, 0x39] = 0x6C40DF5F0B497347 := by decide +kernel

/-- An optical port of device 5 on a live die, tuned to band 0, whose Lamplighter runs; an access to device 6 waits for its reply. -/
def port0 : PortId := ⟨0, 4⟩
def wired (q : FabricPort) : State :=
  let s := { missed .load .peer 0 with ports := [(port0, { q with rxtune := 0x10 })] }
  { s with ddb := { s.ddb with devValid := true, devId := 5 }, lamps := [(0, { Lamplighter.reset with running := true })]
           sconce := { s.sconce with released := [24, 25] } }
/-- The next sequenced flit from device 6, with the CRC of its kind. -/
def bareFlit : FlitHead := ⟨0, false, 5, 6, [], 0, 0, 0⟩
def nextFlit (kind : Nat) : FlitHead := { bareFlit with crc := crc64 (flitBytes bareFlit kind) }
/-- Every lane in a laser state. -/
def lit (las : BitVec 2) (q : FabricPort) : FabricPort := { q with lanes := (List.range 32).map (fun i => (i, { LaneHealth.reset with las })) }

/-- The CRC covers bytes 0–247. -/
theorem flitBytes_crc (h : FlitHead) (c : Word64) (kind : Nat) : flitBytes { h with crc := c } kind = flitBytes h kind := by simp only [flitBytes]

/-- A flit whose CRC has a bit wrong is not intact. -/
theorem witness_intact : ∀ kind, flitIntact (nextFlit kind) kind ∧ flitIntact { bareFlit with crc := crc64 (flitBytes bareFlit kind) ^^^ 1 } kind = false := by
  intro kind
  simp only [flitIntact, nextFlit, flitBytes_crc]
  generalize crc64 (flitBytes bareFlit kind) = x
  refine ⟨beq_self_eq_true x, beq_eq_false_iff_ne.mpr (fun h => ?_)⟩
  have := congrArg (fun y : Word64 => y.getLsbD 0) h
  simp at this

theorem witness_fabricFlits : (wired .reset).liveEndpoint 24 ∧ (unit 3).liveEndpoint 24 = false ∧ ((wired .reset).port port0).takes port0 bareFlit ∧
    ((wired .reset).port port0).corrects port0 bareFlit ∧ bareFlit.seq.toNat = ((wired .reset).port port0).expected bareFlit.src.toNat % 65536 ∧
    (wired .reset).forMe port0 bareFlit ∧ (wired .reset).forMe port0 { bareFlit with dest := 9 } = false ∧
    ((wired .reset).port port0).asked = [] ∧ (({ bareFlit with seq := 65535 } : FlitHead).seq.toNat + 1) % 65536 = 0 ∧
    ((wired .reset).port port0).tx.waiting = [] ∧ (wired .reset).host.incoming = [] ∧ (wired .reset).ddb.devValid ∧
    someSat (((wired .reset).exported 0 needRead 8 (fun _ => none)).2) (fun _ => true) ∧
    someSat ((wired .reset).atPeer 1) (fun a => a.kind == .load && !Pol.acquire a.pol) ∧ ((wired .reset).atPeer 7).isNone ∧
    someSat ((missed .store .peer 0).atPeer 1) (fun a => a.kind == .store) ∧ ((2 : Word64).toNat = 2) ∧ 5 < (6 : Byte).toNat ∧
    (isOptical ⟨0, 3⟩ = false ∧ ((wired .reset).port ⟨0, 3⟩).down = false) ∧ ((wired { FabricPort.reset with training := true }).port port0).training ∧
    ((wired .reset).port port0).up port0 = false ∧ ((wired (lit 2 .reset)).port port0).up port0 ∧
    (let q := (wired (lit 2 { FabricPort.reset with replay := [(9, flitOf .reply, [6])] })).port port0
     q.markers = [] ∧ (q.replay.map (fun e => e.1)).Nodup ∧ q.tx.waiting = []) := by
  decide +kernel

theorem witness_fabricPorts : isOptical port0 ∧ (wired .reset).lampPort port0 ∧ ((wired .reset).port port0).req = false ∧ (unit 3).lampPort port0 = false ∧
    (laneCount ((0x80000000FFFFFFFF#64).setWidth 32) = widthOf ((0x80000000FFFFFFFF#64).extractLsb' 56 2) ∧ (0x80000000FFFFFFFF#64).getLsbD 63) ∧
    ((wired .reset).port port0).inUse.getLsbD 0 ∧
    (let s := wired (lit 1 { FabricPort.reset with tx := { Transmitter.reset with waiting := [flitOf .reply] } })
     ((s.port port0).lane 0).las = 1 ∧ s.flitWaits port0) ∧
    (∀ i, i < 32 → laserCode 0xAAAAAAAAAAAAAAAA i ≠ 0 ∧ laserCode 0xAAAAAAAAAAAAAAAA i ≠ 1) ∧ laserCode 0 0 = 0 ∧
    ((wired .reset).port port0).clamped = false ∧ (unit 3).ddb.ready = false ∧ ((unit 3).port port0).clamped = false ∧
    (let q := (wired (lit 2 { FabricPort.reset with req := true })).port port0
     q.req ∧ q.replaying = false ∧ q.up port0) ∧ (3 : Fin 32).val ∈ ((wired { FabricPort.reset with waking := [3] }).port port0).waking ∧
    (({ wired .reset with lamps := [(0, { Lamplighter.reset with running := true, kicked := true })] } : State).lamp 0).kicked ∧
    ((wired .reset).lamp 0).kicked = false ∧ ((wired .reset).lamp 1).running = false ∧ (wired .reset).liveEndpoint 25 := by decide +kernel

/-! The whole machine. -/

theorem witness_decoding : (Instr.addi 4 5 (-3)).wellFormed ∧ encodeScalar (.addi 4 5 (-3)) = some 0x0420BFFD ∧ decode [0x0420BFFD] = .ok (.addi 4 5 (-3)) ∧
    (Instr.nelse.wellFormed ∧ (encodeCandleOnly .nelse).isSome) ∧ encode (.addi 4 5 (-3)) ≠ [] ∧ (unit 3).me.tr.sup = false ∧ (supervisor (unit 3)).me.tr.sup := by decide +kernel

/-- The worked `addi` and a `vadd.f32 v4, v6, v8` as the next instruction of the strand. -/
def scalarTurn : State := State.reset.withFetchWord 32 0x0420BFFD
def laneTurn : State := State.reset.withFetchWord 96 (encode (.vadd two) |>.foldr (fun w n => w.toNat + 2 ^ 32 * n) 0)

theorem witness_scalarStep : scalarTurn.agenda = [.scalar scalarTurn.me.who.id] ∧ scalarTurn.me.live ∧ scalarTurn.me.mayIssueNow ∧
    (scheduled (fun k => { k with slot := none })).me.mayIssueNow = false ∧ scalarTurn.me.sch.retired = false ∧ scalarTurn.me.sch.hold = false ∧
    scalarTurn.me.sch.deadlock = none ∧ scalarTurn.me.sch.atQueue = false ∧ scalarTurn.me.sch.halted = false ∧ scalarTurn.me.lq.draining = false ∧ scalarTurn.me.redo = [] ∧ ({ scalarTurn with agenda := [] } : State).dueFirst = none ∧
    ({ scalarTurn with agenda := [] } : State).dueLast = none ∧ (({ scalarTurn with agenda := [] } : State).fetch scalarTurn.me.pc 4).2 = .bytes (leBytes 4 0x0420BFFD) ∧
    decodeScalar 0x0420BFFD = .ok (.addi 4 5 (-3)) ∧ State.reset.agenda = [] := by decide +kernel

/-- Lane instructions as a run, with the lane stream's turn: a chain of two, a member that reads a latch nobody wrote, the chain in execution, and the
chain of another strand of the port in execution. -/
def wordOf (i : Instr) : BitVec 96 := BitVec.ofNat 96 (ofLe ((encode i).flatMap (fun w => leBytes 4 w.toNat)))
def chainTurn (is : List Instr) : State := { running (unit 3) (is.map wordOf) with agenda := [.lane here] }
def chained : State := chainTurn [.vadd { two with dst := .x 0 }, .vadd { two with a := .x 0 }]
def broken : State := chainTurn [.vadd { two with a := .x 0 }]
def opened : State := withMe chained (fun x => x.openChain 2 0)
def neighbour : State := { pairOfStrands with rest := pairOfStrands.rest.map (fun x => { x with lq := opened.me.lq }), agenda := [.lane here] }

theorem witness_chains : ([chained, broken].all (fun s => s.me.live && s.me.mayIssueNow && !s.me.laneHeld && !s.me.chainOpen && (s.me.hazards s.me.nextChain).isEmpty &&
      !({ s with agenda := [] } : State).laneFaultHeld s.me.nextChain && !({ s with agenda := [] } : State).portBusy here)) ∧
    chained.me.nextChain.length = 2 ∧ illegalChain chained.me.nextChain = false ∧ illegalChain broken.me.nextChain ∧
    someSat chained.me.nextWord (fun w => decide (decodeLane w = .ok (.vadd { two with dst := .x 0 })) && !chained.me.nextDone w) ∧
    someSat broken.me.nextWord (fun w => decide (decodeLane w = .ok (.vadd { two with a := .x 0 })) && !broken.me.nextDone w) ∧
    opened.me.chainOpen ∧ ({ opened with agenda := [] } : State).portBusy here = false ∧ ({ neighbour with agenda := [] } : State).portBusy here := by decide +kernel

theorem witness_laneStep : someSat laneTurn.me.nextWord (fun w => decide (decodeLane w = .ok (.vadd two)) && !laneTurn.me.nextDone w) ∧
    laneTurn.agenda = [.lane laneTurn.me.who.id] ∧ laneTurn.me.live ∧ laneTurn.me.mayIssueNow ∧ laneTurn.me.laneHeld = false ∧ laneTurn.me.chainOpen = false ∧
    laneTurn.me.hazards laneTurn.me.nextChain = [] ∧ ({ laneTurn with agenda := [] } : State).laneFaultHeld laneTurn.me.nextChain = false ∧
    illegalChain laneTurn.me.nextChain = false ∧ laneTurn.me.nextChain.length ≤ 1 ∧ ({ laneTurn with agenda := [] } : State).portBusy here = false := by decide +kernel

theorem witness_invariant : memoryWf State.reset ∧ Numbered State.reset ∧ memoryWf (unit 3) ∧ Numbered (unit 3) ∧
    (match step (State.reset.withFetchWord 32 0x0420BFFD) with | .next _ => true | _ => false) = true := by decide +kernel

end Sys2Proof.Tests
end

section
/-! PROOFS. The zero register (R12): pending marks of a scalar register, and the statement about s0. -/

namespace Sys2Proof.Proofs.ZeroRegister

open Sys2Proof.Machine
open Sys2Proof.Laws.Operations (reg_zero setReg_zero)

/-- A register is pending exactly when it is not s0 and some mark names it. -/
theorem isPending_iff (x : Strand) (r : Reg) : x.isPending r = true ↔ r ≠ 0 ∧ ∃ p ∈ x.pend, p.1 = r := by
  simp [Strand.isPending]

@[simp] theorem isPending_zero (x : Strand) : x.isPending 0 = false :=
  Bool.eq_false_iff.mpr fun h => ((isPending_iff x 0).mp h).1 rfl

@[simp] theorem mark_zero (x : Strand) (src : Source) : x.mark 0 src = x := if_pos rfl

/-- Settles O1: each part is the rule of one operation on register 0. -/
theorem zeroRegister : Obligations.ZeroRegister :=
  fun s v src => ⟨reg_zero s, setReg_zero s v, isPending_zero (s.me.mark 0 src), mark_zero s.me src⟩

end Sys2Proof.Proofs.ZeroRegister
end

section
/-! PROOFS. Division (R87): the two ways a division with its registers ready can go, and the signed operators as truncating integer division. -/

namespace Sys2Proof.Proofs.Division

open Sys2Proof.Machine Sys2Proof.Safety
open Sys2Proof.Laws.Operations (computes_of pending_of_ready trapped_raiseTrap)

/-! ## The signed operators on integers -/

/-- The quotient of words, the overflow of the least number by -1 included. -/
theorem sdiv_eq_ofInt_tdiv (x y : Word64) : x.sdiv y = BitVec.ofInt 64 (x.toInt.tdiv y.toInt) :=
  BitVec.eq_of_toInt_eq (by rw [BitVec.toInt_sdiv, BitVec.toInt_ofInt])

theorem srem_eq_ofInt_tmod (x y : Word64) : x.srem y = BitVec.ofInt 64 (x.toInt.tmod y.toInt) := by
  rw [← BitVec.toInt_srem, BitVec.ofInt_toInt]

/-! ## The shared operation -/

section

variable {s : State} {i : Instr} {d a b : Reg} {f : Word64 → Word64 → Word64}

/-- With a nonzero divisor a division is a register result like any other. -/
theorem divide_of_ne_zero (hb : s.reg b ≠ 0) : s.divide d a b f = s.compute d [a, b] (f (s.reg a) (s.reg b)) := by
  rw [State.divide, State.compute, if_neg hb]

theorem divide_of_zero (h : Ready s [d, a, b]) (hb : s.reg b = 0) : s.divide d a b f = s.raiseTrap 0x28 0 := by
  rw [State.divide, pending_of_ready h, if_neg Bool.false_ne_true, if_pos hb]

theorem computes_of_divide (hi : exec i s = .next (s.divide d a b f)) (h : Ready s [d, a, b]) (hb : s.reg b ≠ 0) :
    Computes s i d (f (s.reg a) (s.reg b)) :=
  computes_of (hi.trans (congrArg _ (divide_of_ne_zero hb))) h

theorem traps_of_divide (hi : exec i s = .next (s.divide d a b f)) (h : Ready s [d, a, b]) (hb : s.reg b = 0) (ht : CanTrap s) :
    Traps s i 0x28 0 :=
  ⟨_, hi.trans (congrArg _ (divide_of_zero h hb)), trapped_raiseTrap ht 0x28 0⟩

end

/-! ## The four instructions -/

theorem exec_div (d a b : Reg) (s : State) : exec (.div d a b) s = .next (s.divide d a b BitVec.sdiv) := rfl
theorem exec_rem (d a b : Reg) (s : State) : exec (.rem d a b) s = .next (s.divide d a b BitVec.srem) := rfl
theorem exec_divn (d a b : Reg) (s : State) : exec (.divn d a b) s = .next (s.divide d a b (· / ·)) := rfl
theorem exec_remn (d a b : Reg) (s : State) : exec (.remn d a b) s = .next (s.divide d a b (· % ·)) := rfl

/-- Settles O5: the shared operation's two cases, with each instruction's operator read as integer or natural division. -/
theorem division : Obligations.Division := by
  intro s d a b h
  refine ⟨fun hb => ⟨?_, ?_, ?_, ?_⟩, fun hb ht => ⟨?_, ?_, ?_, ?_⟩⟩
  · rw [← sdiv_eq_ofInt_tdiv]
    exact computes_of_divide (exec_div d a b s) h hb
  · rw [← srem_eq_ofInt_tmod]
    exact computes_of_divide (exec_rem d a b s) h hb
  · rw [← BitVec.udiv_def]
    exact computes_of_divide (exec_divn d a b s) h hb
  · rw [← BitVec.umod_def]
    exact computes_of_divide (exec_remn d a b s) h hb
  · exact traps_of_divide (exec_div d a b s) h hb ht
  · exact traps_of_divide (exec_rem d a b s) h hb ht
  · exact traps_of_divide (exec_divn d a b s) h hb ht
  · exact traps_of_divide (exec_remn d a b s) h hb ht

end Sys2Proof.Proofs.Division
end

section
/-! PROOFS. What `qinfo` reads (R208, R210): a queue instruction whose checks pass has its effect, and the word of a queue's fields. -/

namespace Sys2Proof.Proofs.QueueInformation

open Sys2Proof.Machine Sys2Proof.Safety
open Sys2Proof.Laws.Operations (computes_of compute_cases pending_of_ready ready_mono checked_ready)

/-! ## Reaching the effect -/

/-- A queue instruction with its registers ready that names a queue has its effect on that queue (R202, R204). -/
theorem queueChecked_queueAt {s : State} {b : Reg} {own : Bool} {q : Fin 32} {peer : Nat} {c : Crew} {regs : List Reg}
    (eff : State → Nat → Crew → Nat → State) (hq : QueueAt s b own q peer c) (h : Ready s (b :: regs)) :
    s.queueChecked true regs own b q eff = eff s peer c (c.descriptor q.val) := by
  obtain ⟨-, hpeer, hcores, hcrew, hinside⟩ := hq
  have hregs : Ready s (if own then regs else b :: regs) := by
    cases own
    · exact h
    · exact ready_mono h fun r hr => List.mem_cons_of_mem b hr
  have hnamed : (if own then s.me.who.peer else ((s.reg b).extractLsb' 0 5).toNat) = peer := by
    rw [hpeer, BitVec.extractLsb'_toNat, Nat.shiftRight_zero]
  rw [State.queueChecked, checked_ready _ hregs]
  simp only [hnamed, hcrew, if_neg (Nat.not_le.mpr hcores), if_neg (Nat.not_lt.mpr hinside)]

/-- An instruction that writes a value and moves on computes that value. -/
theorem computes_of_setReg_advance {s : State} {i : Instr} {d : Reg} {v : Word64} (hi : exec i s = .next (s.setReg d v).advance)
    (h : Ready s [d]) : Computes s i d v := by
  obtain ⟨hp, -⟩ | ⟨-, hc⟩ := compute_cases s d [] v
  · exact absurd hp (Bool.eq_false_iff.mp (pending_of_ready h))
  · exact computes_of (srcs := []) (hi.trans (congrArg _ hc.symm)) h

/-! ## The word -/

/-- The fields of a defined queue in the places of R210. -/
def infoNumber (k : Desc) : Nat :=
  k.allowance + k.fill * 2 ^ 8 + k.head % 64 * 2 ^ 16 + k.tail % 64 * 2 ^ 24 + k.slots % 128 * 2 ^ 32 + 2 ^ 39 + (if k.reserve then 2 ^ 40 else 0)

/-- The word that R210 gives for a descriptor. -/
def infoWord (k : Desc) : Word64 := if k.defined then BitVec.ofNat 64 (infoNumber k) else 0

theorem exec_qinfo (d b : Reg) (o : Bool) (q : Fin 32) (s : State) :
    exec (.qinfo d b o q) s = .next (s.queueChecked (Instr.qinfo d b o q).wellFormed [d] o b q fun s _ c _ =>
      (s.setReg d (infoWord (c.descBefore q))).advance) := rfl

theorem wellFormed_qinfo {d b : Reg} {o : Bool} {q : Fin 32} (h : o → b = 0) : (Instr.qinfo d b o q).wellFormed = true := by
  cases o
  · rfl
  · rw [h rfl]
    rfl

theorem computes_qinfo {s : State} {r b : Reg} {o : Bool} {q : Fin 32} {peer : Nat} {c : Crew} (hq : QueueAt s b o q peer c)
    (h : Ready s [b, r]) : Computes s (.qinfo r b o q) r (infoWord (c.descBefore q)) := by
  refine computes_of_setReg_advance ?_ (ready_mono h fun _ hr => List.mem_cons_of_mem b hr)
  rw [exec_qinfo, wellFormed_qinfo hq.1, queueChecked_queueAt _ hq h]

/-- A field of the word of a number is a digit of the number. -/
theorem toNat_extractLsb'_ofNat {v : Nat} (hv : v < 2 ^ 64) (lo n : Nat) :
    ((BitVec.ofNat 64 v).extractLsb' lo n).toNat = v / 2 ^ lo % 2 ^ n := by
  rw [BitVec.extractLsb'_toNat, BitVec.toNat_ofNat, Nat.mod_eq_of_lt hv, Nat.shiftRight_eq_div_pow]

theorem getLsbD_ofNat_eq_decide (v : Nat) {i : Nat} (hi : i < 64) : (BitVec.ofNat 64 v).getLsbD i = decide (v / 2 ^ i % 2 = 1) := by
  rw [BitVec.getLsbD_ofNat, decide_eq_true hi, Bool.true_and, Nat.testBit_eq_decide_div_mod_eq]

/-- Fields that fit their places are read back, and every other bit is zero (R210). -/
theorem infoNumber_fields {k : Desc} (ha : k.allowance < 256) (hf : k.fill < 256) (hh : k.head < 64) (ht : k.tail < 64) (hs : k.slots < 128) :
    let v := BitVec.ofNat 64 (infoNumber k)
    (v.extractLsb' 0 8).toNat = k.allowance ∧ (v.extractLsb' 8 8).toNat = k.fill ∧ (v.extractLsb' 16 6).toNat = k.head ∧
    v.extractLsb' 22 2 = 0 ∧ (v.extractLsb' 24 6).toNat = k.tail ∧ v.extractLsb' 30 2 = 0 ∧ (v.extractLsb' 32 7).toNat = k.slots ∧
    v.getLsbD 39 ∧ v.getLsbD 40 = k.reserve ∧ v.extractLsb' 41 23 = 0 := by
  have hn : infoNumber k =
      k.allowance + k.fill * 2 ^ 8 + k.head * 2 ^ 16 + k.tail * 2 ^ 24 + k.slots * 2 ^ 32 + 2 ^ 39 + k.reserve.toNat * 2 ^ 40 := by
    rw [infoNumber, Nat.mod_eq_of_lt hh, Nat.mod_eq_of_lt ht, Nat.mod_eq_of_lt hs]
    cases k.reserve <;> rfl
  have hr : k.reserve.toNat < 2 := Bool.toNat_lt k.reserve
  have hv : infoNumber k < 2 ^ 64 := by omega
  have digit := toNat_extractLsb'_ofNat hv
  have zeros {lo n : Nat} (h : infoNumber k / 2 ^ lo % 2 ^ n = 0) : (BitVec.ofNat 64 (infoNumber k)).extractLsb' lo n = 0 :=
    BitVec.eq_of_toNat_eq ((digit lo n).trans (h.trans BitVec.toNat_zero.symm))
  have hdefined : (BitVec.ofNat 64 (infoNumber k)).getLsbD 39 = true := by
    rw [getLsbD_ofNat_eq_decide _ (by decide), decide_eq_true_eq]
    omega
  have hreserve : (BitVec.ofNat 64 (infoNumber k)).getLsbD 40 = k.reserve := by
    have hbit : infoNumber k / 2 ^ 40 % 2 = k.reserve.toNat := by omega
    rw [getLsbD_ofNat_eq_decide _ (by decide), hbit]
    cases k.reserve <;> rfl
  exact ⟨(digit 0 8).trans (by omega), (digit 8 8).trans (by omega), (digit 16 6).trans (by omega), zeros (by omega),
    (digit 24 6).trans (by omega), zeros (by omega), (digit 32 7).trans (by omega), hdefined, hreserve, zeros (by omega)⟩

/-- Settles O20: `qinfo` computes the word of the descriptor, which is zero for an undefined queue and else holds its fields. -/
theorem queueInformation : Obligations.QueueInformation := by
  intro s r b o q peer c k hq h
  have hc : Computes s (.qinfo r b o q) r (infoWord k) := computes_qinfo hq h
  refine ⟨fun hk => ?_, fun hk ha hf hh ht hs => ⟨BitVec.ofNat 64 (infoNumber k), ?_, infoNumber_fields ha hf hh ht hs⟩⟩
  · rwa [infoWord, hk, if_neg Bool.false_ne_true] at hc
  · rwa [infoWord, if_pos hk] at hc

end Sys2Proof.Proofs.QueueInformation
end
